-- ==== Sys2Proof/Word.lean ====
section
/-! DEFINITION. The widths of the values the spec speaks of. Every value is an unsigned bit vector of a
stated width, bit 0 least significant (spec/00_scope.md R12). -/

namespace Sys2Proof

/-- The unit of input, 8 bits (R8), and the operand of `REFLECT8`. -/
abbrev Byte := BitVec 8

/-- The width of the register, the polynomial, the initial value and the output mask (R5). -/
abbrev Word16 := BitVec 16

/-- The operand of `REFLECT32` (R84). -/
abbrev Word32 := BitVec 32

/-- The operand bus `din` and the result bus `dout` (R60), and the operand of `REFLECT64` (R85). -/
abbrev Word64 := BitVec 64

/-- The operation code `op` (R60). -/
abbrev OpCode := BitVec 3

end Sys2Proof
end

