-- ==== Sys2Proof/Machine/Flags.lean ====
section
/-! DEFINITION. The block has no flags, condition codes or status bits (spec/10_state.md R32). The one tested
condition of the algorithm is computed here, used within the bit step that computes it, and not kept. -/

namespace Sys2Proof.Machine

/-- `t <- reg[15]`: the bit about to be shifted out, read before the shift (spec/41_crc_engine.md R105). -/
def testedBit (r : Word16) : Bool := r.getLsbD 15

end Sys2Proof.Machine
end

