-- ==== Sys2Proof/Syntax.lean ====
section
/-! DEFINITION. The operations of the block as syntax: one constructor per row of spec/opcode_table.json,
and the command (`op`, `din`) that carries one over the command interface. -/

namespace Sys2Proof

/-- The six operations that have a code (spec/30_encoding.md R61). An operand is typed at its own width, as
R64 asks of a model. `CONSTRUCT` is the reset event and has no code (R66); `BITSTEP` is internal
(spec/41_crc_engine.md R105); neither is a constructor. -/
inductive Instr where
  /-- `REFLECT8 v` (spec/40_reflector.md R82). -/
  | reflect8 (v : Byte)
  /-- `REFLECT16 v` (R83). -/
  | reflect16 (v : Word16)
  /-- `REFLECT32 v` (R84). -/
  | reflect32 (v : Word32)
  /-- `REFLECT64 v` (R85). -/
  | reflect64 (v : Word64)
  /-- `PROCESS b` (spec/41_crc_engine.md R106). -/
  | process (b : Byte)
  /-- `GET`, which the source also names `finalize` (R109; spec/90_conflicts.md C4). -/
  | get
deriving DecidableEq, Repr

/-- A command of the interface: a 3-bit operation code and the 64-bit operand bus (spec/30_encoding.md R60). -/
structure Command where
  op : OpCode
  din : Word64
deriving DecidableEq, Repr

end Sys2Proof
end

