-- ==== Sys2Proof/Machine/Operands.lean ====
section
/-! DEFINITION. Where operands and results stand on the 64-bit buses (spec/30_encoding.md R64, R69): the one
operand form of this block. There are no immediates, sign extensions, scalings or register specifiers (R69). -/

namespace Sys2Proof.Machine

/-- The operand of width `n` on `din`: its low `n` bits; the bits above are ignored (R64). -/
def operand (n : Nat) (din : Word64) : BitVec n := din.setWidth n

/-- An operand of width `n` laid on `din` with zeros above it, as the host writes `op:operand` (R70). -/
def placeOperand {n : Nat} (v : BitVec n) : Word64 := v.setWidth 64

/-- A result of width `n` on `dout`: the low `n` bits, zeros above (R64). -/
def placeResult {n : Nat} (v : BitVec n) : Word64 := v.setWidth 64

/-- How many bits of `din` the operation of a code takes; `none` for the two reserved codes
(R61, R67). -/
def operandWidth (op : OpCode) : Option Nat :=
  match op.getLsbD 2, op.getLsbD 1, op.getLsbD 0 with
  | false, false, false => some 8
  | false, false, true => some 16
  | false, true, false => some 32
  | false, true, true => some 64
  | true, false, false => some 8
  | true, false, true => some 0
  | true, true, false => none
  | true, true, true => none

/-- How many bits of `dout` an instruction's result takes; `PROCESS` has no result (R61, R63, R64). -/
def resultWidth : Instr → Nat
  | .reflect8 _ => 8
  | .reflect16 _ => 16
  | .reflect32 _ => 32
  | .reflect64 _ => 64
  | .process _ => 0
  | .get => 16

end Sys2Proof.Machine
end

