-- ==== Sys2Proof/WellFormed.lean ====
section
/-! DEFINITION. What is well formed. An `Instr` is so by its type: its operand has exactly the width the spec
gives it and every value of that width is legal (spec/30_encoding.md R64, spec/40_reflector.md R80,
spec/41_crc_engine.md R114). The checks are therefore about commands: the code is assigned, and the bits of
`din` that the operation ignores are zero. The block accepts commands that fail the second check (R64); they are
only not in the canonical form in which the encoder writes them. -/

namespace Sys2Proof

/-- Every instruction is well formed (log 18); one arm per constructor, so that a new one cannot slip past. -/
def Instr.wf : Instr → Bool
  | .reflect8 _ => true
  | .reflect16 _ => true
  | .reflect32 _ => true
  | .reflect64 _ => true
  | .process _ => true
  | .get => true

/-- The code is one of the six assigned ones (R61, R67). -/
def Command.codeAssigned (c : Command) : Bool := (Machine.operandWidth c.op).isSome

/-- The bits of `din` above the operand are zero (R64 ignores them). -/
def Command.unusedZero (c : Command) : Bool :=
  match Machine.operandWidth c.op with
  | some n => c.din >>> n == 0#64
  | none => c.din == 0#64

/-- A command in canonical form. -/
def Command.wf (c : Command) : Bool := c.codeAssigned && c.unusedZero

end Sys2Proof
end

