-- ==== Sys2Proof/Decode.lean ====
section
/-! DEFINITION. The decoder, total on every command and rejecting by name, and after it the encoder
(spec/30_encoding.md R60 to R68). The bits of `op` are read as R61 numbers them: `op[2]` selects the unit; for
the reflector `op[1:0]` is the width code; for the engine it is the operation. -/

namespace Sys2Proof

/-- Why a command has no instruction. -/
inductive DecodeError where
  /-- The operation codes 110 and 111 are reserved (R67). -/
  | reservedCode (op : OpCode)
deriving DecidableEq, Repr

/-- The instruction a command carries. All eight values of `op` have a case of their own, and `din` takes no
part in the choice (R68). -/
def decode (c : Command) : Except DecodeError Instr :=
  match c.op.getLsbD 2, c.op.getLsbD 1, c.op.getLsbD 0 with
  | false, false, false => .ok (.reflect8 (Machine.operand 8 c.din))
  | false, false, true => .ok (.reflect16 (Machine.operand 16 c.din))
  | false, true, false => .ok (.reflect32 (Machine.operand 32 c.din))
  | false, true, true => .ok (.reflect64 (Machine.operand 64 c.din))
  | true, false, false => .ok (.process (Machine.operand 8 c.din))
  | true, false, true => .ok .get
  | true, true, false => .error (.reservedCode c.op)
  | true, true, true => .error (.reservedCode c.op)

/-- The command in which the host issues an instruction: its code of R61 and its operand in the low bits of
`din`. `GET` has no operand, and `din` is written as zero. -/
def encode : Instr → Command
  | .reflect8 v => ⟨0b000#3, Machine.placeOperand v⟩
  | .reflect16 v => ⟨0b001#3, Machine.placeOperand v⟩
  | .reflect32 v => ⟨0b010#3, Machine.placeOperand v⟩
  | .reflect64 v => ⟨0b011#3, Machine.placeOperand v⟩
  | .process b => ⟨0b100#3, Machine.placeOperand b⟩
  | .get => ⟨0b101#3, 0#64⟩

/-- The byte an issued command feeds to the engine: that of a `PROCESS`, and none for the others
(spec/20_memory.md R41 item (1)). -/
def Command.processOperand (c : Command) : Option Byte :=
  match decode c with
  | .ok (.process b) => some b
  | _ => none

/-- A command as one number: `op` in bits 2 to 0, where spec/opcode_table.json numbers it, and `din` in bits 66
to 3. The spec gives a pair and no packed word; DESIGN CHOICE (log 8). -/
def Command.toWord (c : Command) : BitVec 67 := c.din ++ c.op

/-- The command whose word is `w`. -/
def Command.ofWord (w : BitVec 67) : Command := ⟨w.extractLsb' 0 3, w.extractLsb' 3 64⟩

/-- The command whose word has the bits of `w` below `nbits` and zeros above. -/
def Command.ofTableWord (nbits w : Nat) : Command := Command.ofWord (BitVec.ofNat 67 (w % 2 ^ nbits))

/-- The instruction the decoder reads from a word whose bits are numbered as spec/opcode_table.json numbers
them. -/
def decodeTableWord (nbits w : Nat) : Option Instr :=
  match decode (Command.ofTableWord nbits w) with
  | .ok i => some i
  | .error _ => none

end Sys2Proof
end

