-- ==== Sys2Proof/Config.lean ====
section
/-! DEFINITION. The configuration record of an engine instance, and the one value of it that the model
leaves open: the configuration with which the instance is constructed at reset. -/

namespace Sys2Proof

/-- The configuration record, five fields in the source's order (spec/00_scope.md R7, spec/30_encoding.md R71;
spec/90_conflicts.md C1 settles that they are five). Every combination of values is legal
(spec/10_state.md R28), so there is no validity check. -/
structure Cfg where
  /-- Bit `k` is the coefficient of `x^k`; that of `x^16` is 1 and not stored (R22). -/
  polynomial : Word16
  /-- The value of the register at construction (R23). -/
  initialValue : Word16
  /-- Whether each input byte is reversed before it is mixed in (R24). -/
  reflectIn : Bool
  /-- Whether the register value is reversed before output (R25). -/
  reflectOut : Bool
  /-- The mask XORed into the output after the optional reflection (R26). -/
  xorOut : Word16
deriving DecidableEq, Repr, Inhabited

/-- The configuration that reset binds. The spec makes it a parameter of the instance and names no default
(R7, spec/92_eei_decisions.md D3), so it has no body here and no proof can see its value.
DESIGN CHOICE (log 3); safe. -/
opaque Config.cfg : Cfg

end Sys2Proof
end

