-- ==== Sys2Proof/Machine/State.lean ====
section
/-! DEFINITION. The state of one engine instance with its command interface, the reasons a step can stop, and
the state after reset. -/

namespace Sys2Proof.Machine

/-- The state of one engine instance: exactly one 16-bit vector, `register` (spec/10_state.md R20). The configuration
is no part of it; it is the parameter of the instance's step function (R27; Machine/Instance.lean). -/
abbrev InstanceState := Word16

/-- A constructed instance as its host holds it: the parameter with which `CONSTRUCT` bound it, for its whole life,
and its state (spec/10_state.md R27). The host's interface fixes a step without a parameter, so the binding is kept
beside the instance's state and no step writes it: DESIGN CHOICE (log 2); safe. -/
structure Engine where
  /-- The parameter of the instance. -/
  cfg : Cfg
  /-- `register`, the running remainder: the state of the instance (R20). -/
  reg : InstanceState
deriving DecidableEq, Repr

/-- The whole state. `engine` is what the spec calls the instance; `pending` and `dout` are its command
interface (spec/30_encoding.md R60). There is no program counter, no memory, no flag, no mode and no other
register (spec/10_state.md R29 to R33, spec/20_memory.md R40, spec/60_exceptions.md R143 to R148). -/
structure State where
  /-- The engine instance; `none` before its first `CONSTRUCT`, when it holds no value at all (R34, log 7). -/
  engine : Option Engine
  /-- The commands of the host that the block has not taken yet, in issue order (spec/20_memory.md R50). DESIGN CHOICE
  (log 1). -/
  pending : List Command
  /-- The result bus after the last step; `none` when it is not driven (R63). DESIGN CHOICE (log 4). -/
  dout : Option Word64
deriving DecidableEq, Repr

/-- The faults of the block: there are none. "The set of synchronous exceptions is empty"
(spec/60_exceptions.md R140; log 14). -/
inductive Fault
deriving DecidableEq, Repr

/-- Why the model gives a step no meaning. Neither of the block's own two is an exception, and neither changes
state (spec/60_exceptions.md R142). -/
inductive Refusal where
  /-- Raised by an arm of `exec` whose instruction has no meaning yet; no arm is left. Safe. -/
  | notModelled (mnemonic : String)
  /-- Raised by `step` on a command whose code is reserved (spec/30_encoding.md R67). Safe: the block changes no
  state and gives no result there, and the model only stops. -/
  | reservedCode (op : OpCode)
  /-- Raised by `PROCESS` and `GET` on an instance that was never constructed (spec/10_state.md R34). Safe: the
  operation has no meaning there and no value of the register may be assumed. -/
  | unconstructed (mnemonic : String)
deriving DecidableEq, Repr

/-- Before the first `CONSTRUCT`: no instance, nothing issued, the result bus not driven (R34; log 7). -/
def State.powerUp : State := { engine := none, pending := [], dout := none }

/-- Right after reset, which is `CONSTRUCT(cfg)` (spec/10_state.md R37, spec/70_reset_and_hazards.md R160): the
register holds `cfg.initialValue` (spec/41_crc_engine.md R101). The configuration is the open constant of
Config.lean (log 3); nothing has been issued (log 1) and no result is driven (log 4). -/
def State.reset : State :=
  { engine := some { cfg := Config.cfg, reg := Config.cfg.initialValue }, pending := [], dout := none }

end Sys2Proof.Machine
end

