-- ==== Sys2Proof/Machine/Ops.lean ====
section
/-! DEFINITION. The named operations over the state that every meaning and the step are written with, and the
host's own actions. There is no operation that takes an exception and none that returns from one: the block has
no exceptions, no interrupts and no trap mechanism (spec/60_exceptions.md R140, R143, R145). -/

namespace Sys2Proof.Machine

/-! ### What a meaning does -/

/-- Drive a result on `dout`, in its low bits with zeros above (spec/30_encoding.md R64). -/
def State.answer {n : Nat} (s : State) (v : BitVec n) : State := { s with dout := some (placeResult v) }

/-- Leave `dout` undriven: the operation has no result (R63). -/
def State.silent (s : State) : State := { s with dout := none }

/-- Complete an operation of the instance `e`: the state that the operation leaves to the instance, and the result
that it drives, if it has one. The parameter of the instance stays (spec/10_state.md R21, R27). -/
def State.complete (s : State) (e : Engine) (out : InstanceState × Option Word64) : State :=
  { s with engine := some { e with reg := out.1 }, dout := out.2 }

/-- Run an engine operation on the constructed instance; refuse it by name where there is none
(spec/10_state.md R34). -/
def withEngine (mnemonic : String) (s : State) (k : Engine → Host.Outcome State Fault Refusal) :
    Host.Outcome State Fault Refusal :=
  match s.engine with
  | some e => k e
  | none => .refused (.unconstructed mnemonic)

/-! ### What the step does around a meaning -/

/-- The next command of the host and the state with it taken off the stream (spec/20_memory.md R50). -/
def State.takeCommand (s : State) : Option (Command × State) :=
  match s.pending with
  | [] => none
  | c :: rest => some (c, { s with pending := rest })

/-- Nothing was issued: the instance keeps everything and drives no result (log 5). -/
def State.idle (s : State) : State := s.silent

/-- A command that decodes to nothing is refused (spec/30_encoding.md R67). -/
def refusalOf : DecodeError → Refusal
  | .reservedCode op => .reservedCode op

/-! ### What the host does, between two steps -/

/-- The initial state of an instance with the parameter `cfg` (spec/30_encoding.md R66, spec/41_crc_engine.md R101). -/
def constructInstance (cfg : Cfg) : InstanceState := cfg.initialValue

/-- `CONSTRUCT(cfg)`, the reset event: the register takes `cfg.initialValue`, the configuration is bound, and
nothing of an earlier message remains (spec/41_crc_engine.md R101, spec/70_reset_and_hazards.md R160). It has no
result. It is no command and no step performs it (spec/30_encoding.md R66).

It takes effect in issue order as every operation does (spec/20_memory.md R50): the commands issued before it come
before it, and none of them acts on the new instance or counts for a `GET` after it. What they did to the old instance
it overwrites, so the state after it is this one, whatever was pending (DEDUCED, log 9; safe). -/
def State.construct (cfg : Cfg) (_ : State) : State :=
  { engine := some { cfg := cfg, reg := constructInstance cfg }, pending := [], dout := none }

/-- `CONSTRUCT(cfg)` coinciding with the command at the head of the stream: reset wins, and the command is
abandoned without effect and without result (spec/60_exceptions.md R144, spec/92_eei_decisions.md D2). The commands
behind it were issued before the `CONSTRUCT` as well (log 9). -/
def State.constructOver (cfg : Cfg) (s : State) : State :=
  State.construct cfg { s with pending := s.pending.drop 1 }

/-- The host issues further commands, after those it has issued already (spec/70_reset_and_hazards.md R163). -/
def State.issue (s : State) (cs : List Command) : State := { s with pending := s.pending ++ cs }

/-- The host goes on to its next command, leaving the one at the head without effect and without result. Its use in
the spec is after a refused command (spec/30_encoding.md R67, spec/95_test_vectors.md program P5; log 6). It asks for
no refusal: whether a host may also withdraw a command that it has issued, that the block has not taken and that was
not refused, the spec leaves open (spec/70_reset_and_hazards.md R164 speaks of a running operation only), and the
model lets it. DESIGN CHOICE (log 20); safe. -/
def State.skip (s : State) : State := { s with pending := s.pending.drop 1, dout := none }

end Sys2Proof.Machine
end

