-- ==== Sys2Proof/Machine/Reflector.lean ====
section
/-! DEFINITION. The Bit Reflector (spec/40_reflector.md): the contract, the source's staged algorithm, and the
meanings of `REFLECT8`, `REFLECT16`, `REFLECT32`, `REFLECT64`. -/

namespace Sys2Proof.Machine

/-- The low `n` bits of the reversal of `v`: bit `i` is bit `w - 1 - i` of `v` (R80). -/
def reflectBits {w : Nat} (v : BitVec w) : (n : Nat) → BitVec n
  | 0 => 0#0
  | n + 1 => BitVec.cons (v.getLsbD (w - 1 - n)) (reflectBits v n)

/-- `reflect_W`: bit `i` of the result is bit `W - 1 - i` of the operand (R80). The hardware has it at the widths
8, 16, 32 and 64 only (spec/00_scope.md R6). -/
def reflect {w : Nat} (v : BitVec w) : BitVec w := reflectBits v w

/-! ### The staged algorithm (R86; informative, R87) -/

/-- The low `n` bits of the mask of stage size `s`: bit `i` is set exactly when `i / s` is even (R86). -/
def maskBits (s : Nat) : (n : Nat) → BitVec n
  | 0 => 0#0
  | n + 1 => BitVec.cons (n / s % 2 == 0) (maskBits s n)

/-- `M(W,s)` (R86). -/
def stageMask (w s : Nat) : BitVec w := maskBits s w

/-- One stage: every aligned block of `s` bits changes place with its neighbour (R86). -/
def reflectStage {w : Nat} (v : BitVec w) (s : Nat) : BitVec w :=
  ((v >>> s) &&& stageMask w s) ||| ((v &&& stageMask w s) <<< s)

/-- The stage sizes `W/2, W/4, …, 1` of a width `2^k` (R86). -/
def stageSizes : (k : Nat) → List Nat
  | 0 => []
  | k + 1 => 2 ^ k :: stageSizes k

/-- The stages of a width `2^k`, one after another (R86). -/
def reflectStaged {w : Nat} (k : Nat) (v : BitVec w) : BitVec w := (stageSizes k).foldl reflectStage v

/-! ### The four commands. They touch nothing of the engine, constructed or not (R81, spec/70 R161). -/

/-- `REFLECT8 v` (R82). -/
def execReflect8 (v : Byte) (s : State) : Host.Outcome State Fault Refusal := .next (s.answer (reflect v))

/-- `REFLECT16 v` (R83). -/
def execReflect16 (v : Word16) (s : State) : Host.Outcome State Fault Refusal := .next (s.answer (reflect v))

/-- `REFLECT32 v` (R84). -/
def execReflect32 (v : Word32) (s : State) : Host.Outcome State Fault Refusal := .next (s.answer (reflect v))

/-- `REFLECT64 v` (R85). -/
def execReflect64 (v : Word64) (s : State) : Host.Outcome State Fault Refusal := .next (s.answer (reflect v))

end Sys2Proof.Machine
end

