-- ==== Sys2Proof/Machine/Crc.lean ====
section
/-! DEFINITION. The CRC-16 Engine (spec/41_crc_engine.md): the three steps of `PROCESS`, the bit step, the
checksum, and the meanings of `PROCESS` and `GET`. The functions on words take the configuration as an argument,
as spec/10_state.md R27 asks. -/

namespace Sys2Proof.Machine

/-- Step 1, input reflection (R102). -/
def inputByte (cfg : Cfg) (b : Byte) : Byte := if cfg.reflectIn then reflect b else b

/-- Step 2, mixing into the high byte: `reg ^ (zext_16(b) << 8)` (R103). -/
def mix (r : Word16) (b : Byte) : Word16 := r ^^^ (b.setWidth 16 <<< 8)

/-- `BITSTEP`: test bit 15, shift left discarding it, and XOR the polynomial into the shifted value if the tested
bit was set (R105). -/
def bitStep (polynomial : Word16) (r : Word16) : Word16 :=
  let t := testedBit r
  let shifted := r <<< 1
  if t then shifted ^^^ polynomial else shifted

/-- `n` bit steps one after another (R104). -/
def bitSteps (polynomial : Word16) : (n : Nat) → Word16 → Word16
  | 0, r => r
  | n + 1, r => bitSteps polynomial n (bitStep polynomial r)

/-- The register after one byte: steps 1, 2 and 3, the last being exactly eight bit steps (R104, R106). -/
def processByte (cfg : Cfg) (r : Word16) (b : Byte) : Word16 :=
  bitSteps cfg.polynomial 8 (mix r (inputByte cfg b))

/-- The register after the bytes of a buffer, first byte first (R108). -/
def processBytes (cfg : Cfg) (r : Word16) (buffer : List Byte) : Word16 := buffer.foldl (processByte cfg) r

/-- What `GET` returns: the register, reflected if `reflectOut`, then XORed with `xorOut` (R109). -/
def checksum (cfg : Cfg) (r : Word16) : Word16 := (if cfg.reflectOut then reflect r else r) ^^^ cfg.xorOut

/-! ### The two engine operations of an instance, with its configuration as their parameter (spec/10_state.md R27):
what each leaves to the instance and what it drives -/

/-- `PROCESS b` on an instance: one atomic read-modify-write of the register, without a result (R106,
spec/20_memory.md R52). -/
def instanceProcess (cfg : Cfg) (b : Byte) (r : InstanceState) : InstanceState × Option Word64 :=
  (processByte cfg r b, none)

/-- `GET` on an instance: the register as it is, and the checksum as the result (R109, R110). -/
def instanceGet (cfg : Cfg) (r : InstanceState) : InstanceState × Option Word64 :=
  (r, some (placeResult (checksum cfg r)))

/-! ### The meanings: the operation, at the parameter with which the instance was constructed -/

/-- `PROCESS b` (R106). -/
def execProcess (b : Byte) (s : State) : Host.Outcome State Fault Refusal :=
  withEngine "PROCESS" s fun e => .next (s.complete e (instanceProcess e.cfg b e.reg))

/-- `GET` (R109). -/
def execGet (s : State) : Host.Outcome State Fault Refusal :=
  withEngine "GET" s fun e => .next (s.complete e (instanceGet e.cfg e.reg))

end Sys2Proof.Machine
end

