-- ==== Sys2Proof/Machine/Dispatch.lean ====
section
/-! DEFINITION. One arm per instruction, each a direct call of its meaning. -/

namespace Sys2Proof.Machine

/-- The meaning of each instruction (spec/30_encoding.md R61). -/
def exec (i : Instr) (s : State) : Host.Outcome State Fault Refusal :=
  match i with
  | .reflect8 v => Sys2Proof.Machine.execReflect8 v s
  | .reflect16 v => Sys2Proof.Machine.execReflect16 v s
  | .reflect32 v => Sys2Proof.Machine.execReflect32 v s
  | .reflect64 v => Sys2Proof.Machine.execReflect64 v s
  | .process b => Sys2Proof.Machine.execProcess b s
  | .get => Sys2Proof.Machine.execGet s

end Sys2Proof.Machine
end

