-- ==== Sys2Proof/Machine/Step.lean ====
section
/-! DEFINITION. One step: the block takes the host's next command, decodes it and completes it. -/

namespace Sys2Proof.Machine

/-- Take the next command and run it to completion (spec/30_encoding.md R60, spec/20_memory.md R50). A reserved
code is refused (R67); with nothing issued the block is idle (log 5). -/
def step (s : State) : Host.Outcome State Fault Refusal :=
  match s.takeCommand with
  | none => .next s.idle
  | some (c, s') =>
    match decode c with
    | .ok i => exec i s'
    | .error e => .refused (refusalOf e)

/-- `s` with the command of a table word in the place of the host's next command (log 1, log 8). -/
def State.withFetchWord (s : State) (nbits w : Nat) : State :=
  { s with pending := Command.ofTableWord nbits w :: s.pending.drop 1 }

end Sys2Proof.Machine
end

