-- ==== Sys2Proof/Machine/Division.lean ====
section
/-! DEFINITION. The bit strings of the polynomial division that the engine carries out, and what it is to be its
remainder (spec/41_crc_engine.md R113). The step does not use this file; statements do. R113 marks its reading of
the division as the spec's own inference (DEDUCED, log 16). -/

namespace Sys2Proof.Machine

/-- The bits of a value, most significant first. -/
def msbBits {w : Nat} (v : BitVec w) : List Bool := (List.range w).map fun i => v.getLsbD (w - 1 - i)

/-- The message bits: each byte most significant bit first, after the optional input reflection. -/
def messageBits (cfg : Cfg) (message : List Byte) : List Bool :=
  message.flatMap fun b => msbBits (inputByte cfg b)

/-- XOR a bit string onto the first bits of another. -/
def xorOnto : List Bool → List Bool → List Bool
  | [], ys => ys
  | _ :: _, [] => []
  | x :: xs, y :: ys => xor x y :: xorOnto xs ys

/-- The dividend: the message bits followed by 16 zero bits, with `initialValue` XORed onto the first 16 bits. -/
def dividendBits (cfg : Cfg) (message : List Byte) : List Bool :=
  xorOnto (msbBits cfg.initialValue) (messageBits cfg message ++ List.replicate 16 false)

/-- The generator `x^16 + polynomial`: the leading coefficient that is not stored, then the 16 that are
(spec/10_state.md R22). -/
def generatorBits (polynomial : Word16) : List Bool := true :: msbBits polynomial

/-- Read as polynomials over the field of two elements, the first bit the coefficient of the highest power, the
dividend is a multiple of the generator plus the remainder, and the remainder has fewer bits than the
generator. -/
def IsRemainder (dividend generator remainder : List Bool) : Prop :=
  let poly : List Bool → Polynomial (ZMod 2) :=
    fun bits => bits.foldl (fun p b => p * Polynomial.X + if b then 1 else 0) 0
  remainder.length < generator.length ∧
    ∃ quotient : Polynomial (ZMod 2), poly dividend = quotient * poly generator + poly remainder

end Sys2Proof.Machine
end

