-- ==== Sys2Proof/Machine/Instance.lean ====
section
/-! DEFINITION. One engine instance by itself, as spec/10_state.md R20 and R27 ask for it: its state is exactly one
16-bit vector, and its configuration is the parameter of its step function and no component of its state. The state
at its start is `constructInstance cfg` (spec/30_encoding.md R66). A step is a function, not a relation
(spec/41_crc_engine.md R115). -/

namespace Sys2Proof.Machine

/-- A reflector operation leaves the instance as it is and does not depend on its parameter
(spec/40_reflector.md R81). -/
def instanceReflect {n : Nat} (v : BitVec n) (r : InstanceState) : InstanceState × Option Word64 :=
  (r, some (placeResult (reflect v)))

/-- The step function of an instance with the parameter `cfg`: the state it leaves and the result it drives, if it
has one. It exists for every instruction, parameter and state (spec/41_crc_engine.md R114). -/
def instanceStep (cfg : Cfg) (i : Instr) (r : InstanceState) : InstanceState × Option Word64 :=
  match i with
  | .reflect8 v => instanceReflect v r
  | .reflect16 v => instanceReflect v r
  | .reflect32 v => instanceReflect v r
  | .reflect64 v => instanceReflect v r
  | .process b => instanceProcess cfg b r
  | .get => instanceGet cfg r

/-- The step of an instance on a command; a reserved code has none (spec/30_encoding.md R67). -/
def instanceCommand (cfg : Cfg) (c : Command) (r : InstanceState) :
    Except DecodeError (InstanceState × Option Word64) :=
  match decode c with
  | .ok i => .ok (instanceStep cfg i r)
  | .error e => .error e

end Sys2Proof.Machine
end

