-- ==== Sys2Proof/Machine/Presets.lean ====
section
/-! DEFINITION. The four named presets (spec/42_presets.md): constant values of the configuration record, with no
state, operation or encoding of their own (R134, R135). -/

namespace Sys2Proof.Machine

/-- XMODEM (R130). -/
def presetXmodem : Cfg :=
  { polynomial := 0x1021#16, initialValue := 0x0000#16, reflectIn := false, reflectOut := false, xorOut := 0x0000#16 }

/-- KERMIT (R131). -/
def presetKermit : Cfg :=
  { polynomial := 0x1021#16, initialValue := 0x0000#16, reflectIn := true, reflectOut := true, xorOut := 0x0000#16 }

/-- IBM-3740 (R132). -/
def presetIbm3740 : Cfg :=
  { polynomial := 0x1021#16, initialValue := 0xFFFF#16, reflectIn := false, reflectOut := false, xorOut := 0x0000#16 }

/-- SPI-FUJITSU (R133). -/
def presetSpiFujitsu : Cfg :=
  { polynomial := 0x1021#16, initialValue := 0x1D0F#16, reflectIn := false, reflectOut := false, xorOut := 0x0000#16 }

/-- The nine bytes of the check message `"123456789"` (spec/30_encoding.md R72). The code values are PRESUMED,
general knowledge that the spec marks as such (spec/93_implementation_defined.md G2; log 17). -/
def checkMessage : List Byte := [0x31#8, 0x32#8, 0x33#8, 0x34#8, 0x35#8, 0x36#8, 0x37#8, 0x38#8, 0x39#8]

end Sys2Proof.Machine
end

