-- ==== Sys2Proof/Machine/Pseudo.lean ====
section
/-! DEFINITION. The pseudo-instructions, each an expansion into commands that adds no behaviour
(spec/30_encoding.md R72, R73), and the written form of a command (R70). -/

namespace Sys2Proof.Machine

/-! ### Expansions (R72) -/

/-- `process(b0, …, bn-1)`: one `PROCESS` per byte, in order, and nothing at all for the empty buffer. -/
def processCommands (buffer : List Byte) : List Command := buffer.map fun b => encode (.process b)

/-- `process("text")`: the codes of the characters, first character first. Character codes are PRESUMED
(log 17). -/
def processTextCommands (text : List Char) : List Command :=
  processCommands (text.map fun ch => BitVec.ofNat 8 ch.toNat)

/-- `finalize`: the second name of `GET` (R73). -/
def finalizeCommands : List Command := [encode .get]

/-- The widths of the reflector, by their code `w`: `W = 8 * 2^w` (R62, spec/00_scope.md R6). -/
def reflectWidth (w : BitVec 2) : Nat := 8 * 2 ^ w.toNat

/-- `reflect(v)` at the width of code `w`: the command `REFLECTW v` (R72, R73). -/
def reflectCommands (w : BitVec 2) (v : BitVec (reflectWidth w)) : List Command := [⟨0#1 ++ w, placeOperand v⟩]

/-- `check(cfg)` after its `CONSTRUCT cfg`: the check message and a `GET`. -/
def checkCommands : List Command := processCommands checkMessage ++ finalizeCommands

/-- `check(cfg)` whole: construct, then issue the check message and a `GET` (R72). Commands issued before it come
before its `CONSTRUCT` (spec/20_memory.md R50), so it is the expansion of the spec in every state. -/
def State.issueCheck (cfg : Cfg) (s : State) : State := (s.construct cfg).issue checkCommands

/-! ### The written form (R70) -/

/-- The mnemonic, as spec/opcode_table.json has it. -/
def mnemonic : Instr → String
  | .reflect8 _ => "REFLECT8"
  | .reflect16 _ => "REFLECT16"
  | .reflect32 _ => "REFLECT32"
  | .reflect64 _ => "REFLECT64"
  | .process _ => "PROCESS"
  | .get => "GET"

/-- One hexadecimal digit, upper case. -/
def hexDigit (n : Nat) : Char := if n < 10 then Char.ofNat (48 + n) else Char.ofNat (55 + n)

/-- The low `digits` hexadecimal digits of `v`, most significant first. -/
def hexDigits : (digits : Nat) → (v : Nat) → List Char
  | 0, _ => []
  | k + 1, v => hexDigit (v / 16 ^ k % 16) :: hexDigits k v

/-- The operand in hexadecimal at its full width; `GET` has none. -/
def operandDigits : Instr → Option (List Char)
  | .reflect8 v => some (hexDigits 2 v.toNat)
  | .reflect16 v => some (hexDigits 4 v.toNat)
  | .reflect32 v => some (hexDigits 8 v.toNat)
  | .reflect64 v => some (hexDigits 16 v.toNat)
  | .process b => some (hexDigits 2 b.toNat)
  | .get => none

/-- The three binary digits of an operation code, most significant first. -/
def opDigits (op : OpCode) : List Char :=
  [op.getLsbD 2, op.getLsbD 1, op.getLsbD 0].map fun b => if b then '1' else '0'

/-- The encoding of a line, written `op:operand`: `100:31` for `PROCESS 0x31` and `101:-` for `GET` (R70;
digits in upper case and at full width as the spec's own lines have them, log 19). -/
def encodingText (i : Instr) : List Char :=
  opDigits (encode i).op ++ ':' :: (operandDigits i).getD ['-']

/-- A line of a program: the mnemonic and the operand (R70). -/
def lineText (i : Instr) : String :=
  match operandDigits i with
  | some ds => mnemonic i ++ " 0x" ++ String.ofList ds
  | none => mnemonic i

end Sys2Proof.Machine
end

