-- ==== Sys2Proof/Machine/System.lean ====
section
/-! DEFINITION. Several engine instances: the product of the single-instance models
(spec/60_exceptions.md R149, spec/10_state.md R36, spec/20_memory.md R53). Each instance has its own register, its
own configuration, its own command interface and its own host. The order in which they act comes from outside;
nothing is shared, and what stops one instance stops no other (log 10). -/

namespace Sys2Proof.Machine

/-- What can happen to one instance: the block takes its next command, or its host acts between two commands
(spec/70_reset_and_hazards.md R163). -/
inductive Action where
  /-- The block takes the next command. -/
  | step
  /-- `CONSTRUCT(cfg)` (spec/41_crc_engine.md R101). -/
  | construct (cfg : Cfg)
  /-- `CONSTRUCT(cfg)` coinciding with the next command (spec/60_exceptions.md R144). -/
  | constructOver (cfg : Cfg)
  /-- The host issues further commands. -/
  | issue (cs : List Command)
  /-- The host goes on to its next command after a refused one (log 6), or withdraws the one at the head
  (DESIGN CHOICE, log 20). -/
  | skip
deriving DecidableEq, Repr

/-- The state after the block was given the chance to take its next command. A refused command changes no state and
drives no result (spec/30_encoding.md R67, spec/60_exceptions.md R142), be it refused for its code or because there is
no instance. It stays at the head, to be refused again, until its host goes on by `State.skip` or by a `CONSTRUCT`, and
then it is gone without effect: it never acts on an instance constructed later (spec/95_test_vectors.md program P5).
That it stays at the head till then is DESIGN CHOICE (log 21); safe. -/
def State.attempt (s : State) : State :=
  match step s with
  | .next t => t
  | .fault _ => s.silent
  | .refused _ => s.silent

/-- The effect of an action on the instance it happens to. -/
def State.act (s : State) : Action → State
  | .step => s.attempt
  | .construct cfg => s.construct cfg
  | .constructOver cfg => s.constructOver cfg
  | .issue cs => s.issue cs
  | .skip => s.skip

/-- The state after the block has taken every command issued, in issue order (spec/20_memory.md R50), the host going
on after each refused one (log 6). -/
def State.finish (s : State) : State :=
  s.pending.foldl (fun t _ =>
    match step t with
    | .next u => u
    | .fault _ => t.skip
    | .refused _ => t.skip) s

/-- The instances, each a whole `State`. -/
abbrev System := List State

/-- An action happens to the instance numbered `k`; a number without an instance names nothing it could happen to. -/
def System.actAt (k : Nat) (a : Action) (sys : System) : System := sys.modify k fun s => s.act a

/-- What the step of the instance numbered `k` answers: its refusal is its own. -/
def System.outcomeAt (k : Nat) (sys : System) : Option (Host.Outcome State Fault Refusal) := sys[k]?.map step

/-- An interleaving: actions of the instances, one after another, each with the number of its instance. -/
abbrev Schedule := List (Nat × Action)

/-- The instances after an interleaving of their actions. -/
def System.runSchedule : Schedule → System → System
  | [], sys => sys
  | (k, a) :: rest, sys => System.runSchedule rest (sys.actAt k a)

/-- The actions that an interleaving holds for the instance numbered `k`, in its own order. -/
def Schedule.own (k : Nat) : Schedule → List Action
  | [] => []
  | (j, a) :: rest => if j = k then a :: Schedule.own k rest else Schedule.own k rest

end Sys2Proof.Machine
end

