-- ==== Sys2Proof/Safety.lean ====
section
/-! DEFINITION. What counts as a safe state, and the terms in which statements speak of a run. -/

namespace Sys2Proof.Machine

/-- The state an outcome goes on with, if it goes on. -/
def nextState {σ φ ρ : Type} : Host.Outcome σ φ ρ → Option σ
  | .next s => some s
  | .fault _ => none
  | .refused _ => none

/-- The instance was constructed (spec/10_state.md R34). -/
def State.constructed (s : State) : Bool := s.engine.isSome

/-- A state from which the block never stops by itself: the instance is constructed, which is the host's one duty
before the first command (spec/70_reset_and_hazards.md R162), and every command issued has an assigned code
(spec/30_encoding.md R67). -/
def State.safe (s : State) : Bool := s.constructed && s.pending.all Command.codeAssigned

/-- The ingress byte stream of a list of commands: the operands of its `PROCESS` commands, in issue order
(spec/20_memory.md R41). -/
def bytesOf (cs : List Command) : List Byte := cs.filterMap Command.processOperand

/-- The instance has the configuration `cfg`, and its register is the remainder of the division of the message
`message` (spec/41_crc_engine.md R113). -/
def State.HoldsRemainder (cfg : Cfg) (message : List Byte) (s : State) : Prop :=
  ∃ r : Word16, s.engine = some { cfg := cfg, reg := r } ∧
    IsRemainder (dividendBits cfg message) (generatorBits cfg.polynomial) (msbBits r)

/-- `n` steps of the machine, up to the first that does not go on. -/
def run : Nat → State → Host.Outcome State Fault Refusal
  | 0, s => .next s
  | n + 1, s =>
    match step s with
    | .next s' => run n s'
    | .fault f => .fault f
    | .refused r => .refused r

end Sys2Proof.Machine
end

