-- ==== Sys2Proof/Certificates/Slice0/Obligations.lean ====
section
/-! DEFINITION. The statements for the provers. Each docstring names the rule of spec/ it formalises. -/

open Sys2Proof Sys2Proof.Machine

/-! ### The Bit Reflector -/

/-- R80 (spec/40_reflector.md): bit `i` of `reflect_W v` is bit `W - 1 - i` of `v`, for every operand. -/
def Obligations.ReflectReversesTheBitOrder : Prop :=
  ∀ w ∈ [8, 16, 32, 64], ∀ (v : BitVec w) (i : Nat), i < w → (reflect v).getLsbD i = v.getLsbD (w - 1 - i)

/-- R82: code 000 with any `din` is `REFLECT8` of the low 8 bits; it completes in every state, constructed or not,
and all it changes is `dout`, whose low 8 bits are the operand reversed and whose upper bits are zero. -/
def Obligations.Reflect8ReversesEightBits : Prop :=
  (∀ din : Word64, decode ⟨0b000#3, din⟩ = .ok (.reflect8 (din.setWidth 8))) ∧
  ∀ (v : Byte) (s : State), ∃ d : Word64,
    exec (.reflect8 v) s = .next { s with dout := some d } ∧
    (∀ i, i < 8 → d.getLsbD i = v.getLsbD (7 - i)) ∧ ∀ i, 8 ≤ i → i < 64 → d.getLsbD i = false

/-- R83: the same at 16 bits, code 001. -/
def Obligations.Reflect16ReversesSixteenBits : Prop :=
  (∀ din : Word64, decode ⟨0b001#3, din⟩ = .ok (.reflect16 (din.setWidth 16))) ∧
  ∀ (v : Word16) (s : State), ∃ d : Word64,
    exec (.reflect16 v) s = .next { s with dout := some d } ∧
    (∀ i, i < 16 → d.getLsbD i = v.getLsbD (15 - i)) ∧ ∀ i, 16 ≤ i → i < 64 → d.getLsbD i = false

/-- R84: the same at 32 bits, code 010. -/
def Obligations.Reflect32ReversesThirtyTwoBits : Prop :=
  (∀ din : Word64, decode ⟨0b010#3, din⟩ = .ok (.reflect32 (din.setWidth 32))) ∧
  ∀ (v : Word32) (s : State), ∃ d : Word64,
    exec (.reflect32 v) s = .next { s with dout := some d } ∧
    (∀ i, i < 32 → d.getLsbD i = v.getLsbD (31 - i)) ∧ ∀ i, 32 ≤ i → i < 64 → d.getLsbD i = false

/-- R85: the same at 64 bits, code 011, with no upper bits left. -/
def Obligations.Reflect64ReversesSixtyFourBits : Prop :=
  (∀ din : Word64, decode ⟨0b011#3, din⟩ = .ok (.reflect64 din)) ∧
  ∀ (v : Word64) (s : State), ∃ d : Word64,
    exec (.reflect64 v) s = .next { s with dout := some d } ∧ ∀ i, i < 64 → d.getLsbD i = v.getLsbD (63 - i)

/-- R88: reflecting twice gives the value back, at all four widths. -/
def Obligations.ReflectTwiceIsIdentity : Prop :=
  ∀ w ∈ [8, 16, 32, 64], ∀ v : BitVec w, reflect (reflect v) = v

/-- R89 (the spec's own inference): reflection commutes with XOR, AND and OR, keeps the number of set bits, fixes
zero and all ones, moves the single bit `k` to `W - 1 - k`, and does not nest by truncation. -/
def Obligations.ReflectRespectsBitwiseStructure : Prop :=
  (∀ w ∈ [8, 16, 32, 64],
    (∀ a b : BitVec w, reflect (a ^^^ b) = reflect a ^^^ reflect b ∧ reflect (a &&& b) = reflect a &&& reflect b ∧
      reflect (a ||| b) = reflect a ||| reflect b) ∧
    (∀ v : BitVec w, (List.range w).countP (fun i => (reflect v).getLsbD i) =
      (List.range w).countP (fun i => v.getLsbD i)) ∧
    reflect (0#w) = 0#w ∧ reflect (BitVec.allOnes w) = BitVec.allOnes w ∧
    ∀ k, k < w → reflect (1#w <<< k) = 1#w <<< (w - 1 - k)) ∧
  ∀ b : Byte, reflect (b.setWidth 16) = (reflect b).setWidth 16 <<< 8

/-- R86, R87 (R86's reading of the stages is the spec's own inference, log 15): bit `i` of the mask of stage size
`s` is set exactly when `i / s` is even; a width `2^k` has `k` stages; and the stages, in the order `W/2, …, 1` or
in any other order of the same sizes, compute the reflection of the contract. -/
def Obligations.StagedAlgorithmComputesReflection : Prop :=
  ∀ k ∈ [3, 4, 5, 6],
    (stageSizes k).length = k ∧
    (∀ s i, i < 2 ^ k → (stageMask (2 ^ k) s).getLsbD i = decide (i / s % 2 = 0)) ∧
    ∀ v : BitVec (2 ^ k), reflectStaged k v = reflect v ∧
      ∀ order : List Nat, order.Perm (stageSizes k) → order.foldl reflectStage v = reflect v

/-- R81: a reflector command, on any two states, gives the same result, and leaves each engine as it was; a `GET`
after it answers what a `GET` before it would have answered. -/
def Obligations.ReflectorAndEngineDoNotInteract : Prop :=
  ∀ i : Instr, (∃ v, i = .reflect8 v) ∨ (∃ v, i = .reflect16 v) ∨ (∃ v, i = .reflect32 v) ∨ (∃ v, i = .reflect64 v) →
    ∀ s₁ s₂ : State, ∃ t₁ t₂ : State, exec i s₁ = .next t₁ ∧ exec i s₂ = .next t₂ ∧
      t₁.dout = t₂.dout ∧ t₁.engine = s₁.engine ∧ t₂.engine = s₂.engine ∧
      (nextState (exec .get t₁)).map (·.dout) = (nextState (exec .get s₁)).map (·.dout)

/-! ### PROCESS -/

/-- R105: `BITSTEP` is the left shift without the tested bit, XOR the polynomial where that bit was set, for every
register and polynomial; bit by bit, and at the corner cases of the rule. -/
def Obligations.BitStepShiftsAndConditionallyXors : Prop :=
  ∀ p r : Word16,
    bitStep p r = (r <<< 1) ^^^ (if r.getLsbD 15 then p else 0#16) ∧
    (bitStep p r).getLsbD 0 = (r.getLsbD 15 && p.getLsbD 0) ∧
    (∀ i, i < 15 → (bitStep p r).getLsbD (i + 1) = xor (r.getLsbD i) (r.getLsbD 15 && p.getLsbD (i + 1))) ∧
    bitStep p 0#16 = 0#16 ∧ bitStep 0#16 r = r <<< 1 ∧ bitStep p 0x8000#16 = p

/-- R103: the byte is XORed into bits 15 to 8 of the register and bits 7 to 0 stay. -/
def Obligations.MixTouchesTheHighByteOnly : Prop :=
  ∀ (r : Word16) (b : Byte),
    mix r b = r ^^^ (b.setWidth 16 <<< 8) ∧
    (mix r b).extractLsb' 8 8 = r.extractLsb' 8 8 ^^^ b ∧ (mix r b).extractLsb' 0 8 = r.extractLsb' 0 8

/-- R102: with `reflectIn` the byte is reversed before it is mixed in, without it the byte is as it is. -/
def Obligations.InputReflectionIsSelectedByReflectIn : Prop :=
  ∀ (cfg : Cfg) (b : Byte) (i : Nat), i < 8 →
    (inputByte cfg b).getLsbD i = if cfg.reflectIn then b.getLsbD (7 - i) else b.getLsbD i

/-- R106: code 100 with any `din` is `PROCESS` of the low 8 bits; on a constructed instance it completes for every
configuration, register and byte, has no result, and writes the register and nothing else: the mixed value
followed by exactly eight bit steps. The input byte and every intermediate value are given by the rule's own
pseudocode. -/
def Obligations.ProcessFoldsOneByteIntoTheRegister : Prop :=
  (∀ din : Word64, decode ⟨0b100#3, din⟩ = .ok (.process (din.setWidth 8))) ∧
  ∀ (b : Byte) (s : State) (e : Engine), s.engine = some e →
    ∃ (b' : Byte) (reg : Nat → Word16),
      (∀ i, i < 8 → b'.getLsbD i = if e.cfg.reflectIn then b.getLsbD (7 - i) else b.getLsbD i) ∧
      reg 0 = e.reg ^^^ (b'.setWidth 16 <<< 8) ∧
      (∀ k, k < 8 → reg (k + 1) =
        if (reg k).getLsbD 15 then (reg k <<< 1) ^^^ e.cfg.polynomial else reg k <<< 1) ∧
      exec (.process b) s = .next { s with engine := some { e with reg := reg 8 }, dout := none }

/-- R107 (a) to (c) (the spec's own inference): one bit step is linear over XOR, `PROCESS` is linear in the pair of
register and byte, and depends on them through the mixed value only. -/
def Obligations.ProcessIsLinearOverXor : Prop :=
  (∀ p a c : Word16, bitStep p (a ^^^ c) = bitStep p a ^^^ bitStep p c) ∧ (∀ p, bitStep p 0#16 = 0#16) ∧
  (∀ (cfg : Cfg) (r : Word16) (b : Byte),
    processByte cfg r b = processByte cfg r 0#8 ^^^ processByte cfg 0#16 b) ∧
  ∀ (cfg : Cfg) (r₁ r₂ : Word16) (b₁ b₂ : Byte),
    mix r₁ (inputByte cfg b₁) = mix r₂ (inputByte cfg b₂) → processByte cfg r₁ b₁ = processByte cfg r₂ b₂

/-- R107 (d) (the spec's own inference): for every polynomial there is a table of 256 entries with which one look-up
and one XOR compute what the eight bit steps compute, for every configuration with that polynomial, register and
byte. -/
def Obligations.TableDrivenEngineComputesTheSame : Prop :=
  ∀ p : Word16, ∃ table : List Word16, table.length = 256 ∧
    ∀ (cfg : Cfg) (r : Word16) (b : Byte), cfg.polynomial = p →
      table[(r.extractLsb' 8 8 ^^^ inputByte cfg b).toNat]? = some (processByte cfg r b ^^^ (r <<< 8))

/-- R106's corner cases, and the zero polynomial (spec/95_test_vectors.md section 4.2): a byte that cancels the high
byte of the register leaves the old low byte in the high byte whatever the polynomial, and so does every byte where
the polynomial is zero; the zero byte on the zero register changes nothing. -/
def Obligations.CancelledBytesShiftTheLowByteUp : Prop :=
  ∀ (cfg : Cfg) (r : Word16) (b : Byte),
    (inputByte cfg b = r.extractLsb' 8 8 ∨ cfg.polynomial = 0#16 → processByte cfg r b = r <<< 8) ∧
    (r = 0#16 ∧ b = 0#8 → processByte cfg r b = 0#16)

/-- R44: with `reflectIn` a byte is processed as its reversal is without it; a byte that is its own reversal is
processed alike either way (R106). -/
def Obligations.ReflectInProcessesTheReversedByte : Prop :=
  ∀ (cfg : Cfg) (r : Word16) (b : Byte),
    processByte { cfg with reflectIn := true } r b = processByte { cfg with reflectIn := false } r (reflect b)

/-- R106 and R109: `initialValue`, `reflectOut` and `xorOut` play no part in `PROCESS`; `polynomial`,
`initialValue` and `reflectIn` play none in `GET`. -/
def Obligations.EachCommandReadsOnlyItsOwnConfigurationFields : Prop :=
  (∀ (s : State) (e : Engine) (b : Byte) (init xo : Word16) (ro : Bool), s.engine = some e →
    ∃ t t' : State, ∃ r : Word16, exec (.process b) s = .next t ∧
      exec (.process b)
        { s with engine := some ⟨{ e.cfg with initialValue := init, reflectOut := ro, xorOut := xo }, e.reg⟩ } =
          .next t' ∧
      t.engine.map (·.reg) = some r ∧ t'.engine.map (·.reg) = some r) ∧
  ∀ (s : State) (e : Engine) (poly init : Word16) (ri : Bool), s.engine = some e →
    ∃ t t' : State, exec .get s = .next t ∧
      exec .get
        { s with engine := some ⟨{ e.cfg with polynomial := poly, initialValue := init, reflectIn := ri }, e.reg⟩ } =
          .next t' ∧
      t.dout = t'.dout

/-! ### GET -/

/-- R109: code 101 with any `din` is `GET`; on a constructed instance it completes for every configuration and
register, writes nothing but `dout`, and answers the register, reversed if `reflectOut`, then XORed with `xorOut`,
in the low 16 bits with zeros above. -/
def Obligations.GetReturnsTheChecksum : Prop :=
  (∀ din : Word64, decode ⟨0b101#3, din⟩ = .ok .get) ∧
  ∀ (s : State) (e : Engine), s.engine = some e → ∃ d : Word64,
    exec .get s = .next { s with dout := some d } ∧
    (∀ i, i < 16 → d.getLsbD i =
      xor (if e.cfg.reflectOut then e.reg.getLsbD (15 - i) else e.reg.getLsbD i) (e.cfg.xorOut.getLsbD i)) ∧
    ∀ i, 16 ≤ i → i < 64 → d.getLsbD i = false

/-- R51, R110: a second `GET` answers what the first did, right after it and after any operations between that are no
`PROCESS` and no `CONSTRUCT`, which are reflector commands and further `GET`s, all of which complete; and a `PROCESS`
after a `GET` leaves the register that it would have left without it. -/
def Obligations.GetIsASnapshotRead : Prop :=
  ∀ s t : State, exec .get s = .next t →
    exec .get t = .next t ∧ t.engine = s.engine ∧
    (∀ between : List Instr, (∀ i ∈ between, ∀ b, i ≠ .process b) →
      ∃ u : State, between.foldlM (fun s i => nextState (exec i s)) t = some u ∧
        u.engine = t.engine ∧ exec .get u = .next { u with dout := t.dout }) ∧
    ∀ b : Byte, (nextState (exec (.process b) t)).map (·.engine) = (nextState (exec (.process b) s)).map (·.engine)

/-! ### CONSTRUCT and reset -/

/-- R101: `CONSTRUCT(cfg)` writes all of the register with `initialValue` and binds the configuration, for every
configuration and state; nothing of what the instance held before is left. -/
def Obligations.ConstructSeedsTheRegister : Prop :=
  ∀ (cfg : Cfg) (s : State),
    (s.construct cfg).engine = some { cfg := cfg, reg := cfg.initialValue } ∧
    ∀ e : Option Engine, ({ s with engine := e } : State).construct cfg = s.construct cfg

/-- R111: the checksum of the empty message, by the formula, for every configuration and every earlier state of the
instance. -/
def Obligations.EmptyMessageGivesTheInitialValueTransformed : Prop :=
  ∀ (cfg : Cfg) (s : State), exec .get (s.construct cfg) = .next
    { s.construct cfg with
      dout := some ((cfg.xorOut ^^^
        (if cfg.reflectOut then reflect cfg.initialValue else cfg.initialValue)).setWidth 64) }

/-- R160, R50: reset is construction: from any earlier state the register is `initialValue` after that one step and every
instruction completes at once; the state the model calls reset is such a state. That its configuration is an open
constant and its interface is empty is the model's choice (log 1, log 3, log 4); that nothing is pending after any
`CONSTRUCT` is read from R50 (log 9). -/
def Obligations.ResetIsConstruction : Prop :=
  (∀ s : State, s.construct Config.cfg = State.reset) ∧
  State.reset.engine = some { cfg := Config.cfg, reg := Config.cfg.initialValue } ∧
  ∀ (cfg : Cfg) (s : State) (i : Instr), ∃ t : State, exec i (s.construct cfg) = .next t

/-- R144: a `CONSTRUCT` that coincides with the next command wins: the command is taken off without effect and
without result, and the state is that after `CONSTRUCT` alone. That issued commands stand in a list is the model's
choice (log 1); that none issued before the `CONSTRUCT` acts after it is read from R50 (log 9). -/
def Obligations.ResetWinsOverTheCommandInFlight : Prop :=
  ∀ (cfg : Cfg) (s : State) (c : Command) (rest : List Command), s.pending = c :: rest →
    s.constructOver cfg = s.construct cfg ∧
    s.constructOver cfg = ({ s with pending := rest } : State).construct cfg ∧
    (s.constructOver cfg).engine = some { cfg := cfg, reg := cfg.initialValue } ∧
    (s.constructOver cfg).pending = [] ∧ (s.constructOver cfg).dout = none

/-- R34: on an instance that was never constructed `PROCESS` and `GET` are refused, by name. -/
def Obligations.UnconstructedEngineCommandsAreRefused : Prop :=
  ∀ s : State, s.engine = none →
    (∀ b : Byte, exec (.process b) s = .refused (.unconstructed "PROCESS")) ∧
    exec .get s = .refused (.unconstructed "GET")

/-! ### The command interface -/

/-- R67: a command with code 110 or 111 decodes to nothing and is refused in every state; the machine gives it no
step, so it changes nothing and has no result. -/
def Obligations.ReservedCodesAreRefused : Prop :=
  ∀ (op : OpCode) (din : Word64) (s : State) (rest : List Command), op = 0b110#3 ∨ op = 0b111#3 →
    s.pending = ⟨op, din⟩ :: rest →
      decode ⟨op, din⟩ = .error (.reservedCode op) ∧ step s = .refused (.reservedCode op)

/-- R61, R68: each of the eight codes is one of the six operations or reserved, and `din` takes no part in the
choice. -/
def Obligations.CodeAloneSelectsTheOperation : Prop :=
  ∀ c : Command,
    (match decode c with
      | .ok i => [(0b000#3, "REFLECT8"), (0b001#3, "REFLECT16"), (0b010#3, "REFLECT32"), (0b011#3, "REFLECT64"),
          (0b100#3, "PROCESS"), (0b101#3, "GET")].lookup c.op = some (mnemonic i)
      | .error e => e = .reservedCode c.op ∧ (c.op = 0b110#3 ∨ c.op = 0b111#3))

/-- R64: two commands with one code whose operands agree do the same step in every state, whatever stands in the bits
of `din` above the operand; and the bits of `dout` above a result are zero. -/
def Obligations.BitsOutsideOperandAndResultDoNotMatter : Prop :=
  (∀ (s : State) (op : OpCode) (n : Nat) (d₁ d₂ : Word64) (rest : List Command), operandWidth op = some n →
    d₁.setWidth n = d₂.setWidth n →
    step { s with pending := ⟨op, d₁⟩ :: rest } = step { s with pending := ⟨op, d₂⟩ :: rest }) ∧
  ∀ (i : Instr) (s t : State) (d : Word64), exec i s = .next t → t.dout = some d →
    ∀ k, resultWidth i ≤ k → d.getLsbD k = false

/-- R61 to R65: decoding the command that encodes an instruction gives the instruction back, with every operand at
every value; so does decoding the 67-bit word of that command, whose packing is the model's choice (log 8). -/
def Obligations.DecodingAnEncodedInstructionGivesItBack : Prop :=
  ∀ i : Instr, i.wf = true →
    decode (encode i) = .ok i ∧ Command.ofWord (encode i).toWord = encode i ∧
    decodeTableWord 67 (encode i).toWord.toNat = some i

/-- The other direction: a command in canonical form (code assigned, unused bits zero) is the encoding of what it
decodes to, and every command decodes as the canonical command of its instruction does. -/
def Obligations.EncodingADecodedCommandGivesItBack : Prop :=
  ∀ (c : Command) (i : Instr), decode c = .ok i →
    (encode i).op = c.op ∧ (c.wf = true → encode i = c) ∧ decode (encode i) = decode c

/-- Words written out from the encodings of R61: `REFLECT8 0x80`, `REFLECT16 0x8000`, `REFLECT32 0x12345678`,
`REFLECT64 0x0123456789ABCDEF`, `PROCESS 0x31` (`100:31`), `GET` (`101:-`), and the two reserved codes. -/
def Obligations.WordsWrittenFromTheTableDecode : Prop :=
  decode ⟨0b000#3, 0x80#64⟩ = .ok (.reflect8 0x80#8) ∧
  decode ⟨0b001#3, 0x8000#64⟩ = .ok (.reflect16 0x8000#16) ∧
  decode ⟨0b010#3, 0x12345678#64⟩ = .ok (.reflect32 0x12345678#32) ∧
  decode ⟨0b011#3, 0x0123456789ABCDEF#64⟩ = .ok (.reflect64 0x0123456789ABCDEF#64) ∧
  decode ⟨0b100#3, 0x31#64⟩ = .ok (.process 0x31#8) ∧
  decode ⟨0b101#3, 0x0#64⟩ = .ok .get ∧
  decode ⟨0b110#3, 0x31#64⟩ = .error (.reservedCode 0b110#3) ∧
  decode ⟨0b111#3, 0x31#64⟩ = .error (.reservedCode 0b111#3)

/-- R60, R50: when the host's next command decodes to an instruction, the step is that instruction on the state with
the command taken off; with nothing issued the block only stops driving a result (the model's choice, log 5). -/
def Obligations.StepRunsTheDecodedInstruction : Prop :=
  (∀ (s : State) (c : Command) (rest : List Command) (i : Instr), s.pending = c :: rest → decode c = .ok i →
    i.wf = true → step s = exec i { s with pending := rest }) ∧
  ∀ s : State, s.pending = [] → step s = .next { s with dout := none }

/-! ### Frames -/

/-- R81, R110: `REFLECT8`, `REFLECT16`, `REFLECT32`, `REFLECT64` and `GET` change nothing but `dout`: not the
register, not the configuration, not the commands still pending. -/
def Obligations.ReadOnlyCommandsChangeOnlyTheResult : Prop :=
  ∀ (i : Instr) (s t : State), (∀ b, i ≠ .process b) → exec i s = .next t →
    t.engine = s.engine ∧ t.pending = s.pending ∧ t.dout.isSome = true

/-- R21, R106: `PROCESS` changes the register and drives no result; the configuration and the commands still pending
stay. -/
def Obligations.ProcessChangesOnlyTheRegister : Prop :=
  ∀ (b : Byte) (s t : State), exec (.process b) s = .next t →
    t.pending = s.pending ∧ t.dout = none ∧ t.engine.map (·.cfg) = s.engine.map (·.cfg) ∧
    ∃ r : Word16, t = { s with engine := s.engine.map (fun e => { e with reg := r }), dout := none }

/-- R21, R37: the register is "mutated exclusively by `process`": a step after which the engine differs ran a
`PROCESS` command. -/
def Obligations.OnlyProcessStepsWriteTheRegister : Prop :=
  ∀ s t : State, step s = .next t → t.engine ≠ s.engine →
    ∃ (c : Command) (rest : List Command) (b : Byte), s.pending = c :: rest ∧ decode c = .ok (.process b)

/-- R27: no step changes the configuration of the instance, makes an instance or unmakes one. -/
def Obligations.ConfigurationIsImmutable : Prop :=
  ∀ s t : State, step s = .next t → t.engine.map (·.cfg) = s.engine.map (·.cfg)

/-! ### Totality, safety, determinism -/

/-- R114: `CONSTRUCT` makes an instance for every configuration, and on a constructed instance every instruction
completes, for every configuration, register and operand, and leaves it constructed with its configuration. -/
def Obligations.EveryInstructionCompletesOnAConstructedInstance : Prop :=
  (∀ (cfg : Cfg) (s : State), ∃ e : Engine, (s.construct cfg).engine = some e ∧ e.cfg = cfg) ∧
  ∀ (i : Instr) (s : State) (e : Engine), s.engine = some e →
    ∃ (t : State) (e' : Engine), exec i s = .next t ∧ t.engine = some e' ∧ e'.cfg = e.cfg

/-- R146, R171: a safe state (constructed, no reserved code issued) always steps, and to a safe state. -/
def Obligations.SafeStatesStepToSafeStates : Prop :=
  ∀ s : State, s.safe = true → ∃ t : State, step s = .next t ∧ t.safe = true

/-- R160, R162: the state after reset is safe. -/
def Obligations.ResetStateIsSafe : Prop := State.reset.safe = true

/-- R140, R142: no step of any state is a fault, and a step is refused only for a reserved code or for an engine
command, `PROCESS` or `GET`, on an instance that was never constructed. -/
def Obligations.NothingFaultsAndOnlyTwoThingsAreRefused : Prop :=
  ∀ s : State, (∀ f, step s ≠ .fault f) ∧
    ∀ r, step s = .refused r → ∃ (c : Command) (rest : List Command), s.pending = c :: rest ∧
      ((r = .reservedCode c.op ∧ c.codeAssigned = false) ∨
        (s.engine = none ∧ ((decode c = .ok .get ∧ r = .unconstructed "GET") ∨
          ∃ b, decode c = .ok (.process b) ∧ r = .unconstructed "PROCESS")))

/-- R50, R110, R115 (the commands issued stand in the model's own list, log 1): run any list of
commands with assigned codes, reflector commands and `GET`s among them, on any constructed instance: every one
completes, the commands issued after them are left, and the register is the fold of the bytes of the `PROCESS`
commands, in issue order, and of nothing else. -/
def Obligations.RegisterDependsOnlyOnTheBytesIssued : Prop :=
  ∀ (cs rest : List Command) (s : State) (e : Engine), (∀ c ∈ cs, c.codeAssigned = true) →
    s.engine = some e → s.pending = cs ++ rest →
    ∃ t : State, run cs.length s = .next t ∧ t.pending = rest ∧
      t.engine = some { e with reg := processBytes e.cfg e.reg (bytesOf cs) }

/-- R112: `process(S[0:k]); process(S[k:end])` gives the same final `get()` as `process(S)` in one call, for every
byte sequence, split point and constructed instance. -/
def Obligations.ChunkingDoesNotMatter : Prop :=
  ∀ (buffer : List Byte) (k : Nat) (s : State) (e : Engine), s.engine = some e → s.pending = [] →
    ∃ whole first second : State,
      run (buffer.length + 1) (s.issue (processCommands buffer ++ [encode .get])) = .next whole ∧
      run (buffer.take k).length (s.issue (processCommands (buffer.take k))) = .next first ∧
      run ((buffer.drop k).length + 1) (first.issue (processCommands (buffer.drop k) ++ [encode .get])) =
        .next second ∧
      second = whole

/-- R168: a message fed after a `GET` without a new `CONSTRUCT` continues the message before it: the second `GET`
answers the checksum of both concatenated. -/
def Obligations.AMessageAfterGetContinuesTheOneBefore : Prop :=
  ∀ (m₁ m₂ : List Byte) (s : State) (e : Engine), s.engine = some e → s.pending = [] →
    ∃ two one : State,
      run (m₁.length + 1 + (m₂.length + 1))
        (s.issue (processCommands m₁ ++ [encode .get] ++ (processCommands m₂ ++ [encode .get]))) = .next two ∧
      run ((m₁ ++ m₂).length + 1) (s.issue (processCommands (m₁ ++ m₂) ++ [encode .get])) = .next one ∧
      two = one ∧ two.dout = some ((checksum e.cfg (processBytes e.cfg e.reg (m₁ ++ m₂))).setWidth 64)

/-- R115: two instances constructed with one configuration and issued the same commands do the same, step by step,
whatever each held before; and if only the bytes they are issued are the same, with other reflector commands and `GET`s
among them, a `GET` at the end leaves both in one state, its answer on `dout`. That the commands stand in a list is the
model's choice (log 1). -/
def Obligations.EqualConfigurationsAndInputsGiveEqualRuns : Prop :=
  ∀ (cfg : Cfg) (s₁ s₂ : State),
    (∀ (cs : List Command) (n : Nat), run n ((s₁.construct cfg).issue cs) = run n ((s₂.construct cfg).issue cs)) ∧
    ∀ cs₁ cs₂ : List Command, (∀ c ∈ cs₁ ++ cs₂, c.codeAssigned = true) → bytesOf cs₁ = bytesOf cs₂ →
      ∃ t : State, run (cs₁.length + 1) ((s₁.construct cfg).issue (cs₁ ++ [encode .get])) = .next t ∧
        run (cs₂.length + 1) ((s₂.construct cfg).issue (cs₂ ++ [encode .get])) = .next t ∧
        t.dout = some ((checksum cfg (processBytes cfg cfg.initialValue (bytesOf cs₁))).setWidth 64)

/-- R116 (the spec's own inference): the bytes 0x31, 0x32 and the same bytes exchanged give different registers. -/
def Obligations.ByteOrderMatters : Prop :=
  processBytes presetXmodem 0x0000#16 [0x31#8, 0x32#8] = 0x20B5#16 ∧
  processBytes presetXmodem 0x0000#16 [0x32#8, 0x31#8] = 0x4585#16

/-! ### The presets -/

/-- R130 to R133, R135: the parameters of each preset; its check value, which `GET` answers after constructing it and
processing the nine bytes of the check message, from every earlier state; and its result with zero bytes. The codes of
the nine characters are taken from outside the source (log 17). -/
def Obligations.PresetsGiveTheirCheckValues : Prop :=
  (presetXmodem, presetKermit, presetIbm3740, presetSpiFujitsu) =
    (⟨0x1021#16, 0x0000#16, false, false, 0x0000#16⟩, ⟨0x1021#16, 0x0000#16, true, true, 0x0000#16⟩,
      ⟨0x1021#16, 0xFFFF#16, false, false, 0x0000#16⟩, ⟨0x1021#16, 0x1D0F#16, false, false, 0x0000#16⟩) ∧
  ∀ s : State,
    [presetXmodem, presetKermit, presetIbm3740, presetSpiFujitsu].map (fun cfg =>
        (nextState (run 10 (s.issueCheck cfg))).bind (·.dout)) =
      [some 0x31C3#64, some 0x2189#64, some 0x29B1#64, some 0xE5CC#64] ∧
    [presetXmodem, presetKermit, presetIbm3740, presetSpiFujitsu].map (fun cfg =>
        (nextState (exec .get (s.construct cfg))).bind (·.dout)) =
      [some 0x0000#64, some 0x0000#64, some 0xFFFF#64, some 0x1D0F#64]

/-! ### What the engine computes -/

/-- R113 (the spec's own inference, log 16): after `CONSTRUCT(cfg)` and any message, the register is the remainder of
the division, modulo the generator polynomial, of the message bits followed by 16 zero bits with `initialValue`
XORed onto the first 16, as polynomials over the field of two elements. -/
def Obligations.RegisterIsTheRemainderOfPolynomialDivision : Prop :=
  ∀ (cfg : Cfg) (message : List Byte) (s : State),
    ∃ t : State, run message.length ((s.construct cfg).issue (processCommands message)) = .next t ∧
      t.pending = [] ∧ t.HoldsRemainder cfg message

/-- R113 (the spec's own inference, log 16), R21: every step keeps the register a
remainder: of the same message, or, where the step took a `PROCESS` command, of the message with that byte appended. -/
def Obligations.EveryStepKeepsTheRegisterARemainder : Prop :=
  ∀ (cfg : Cfg) (message : List Byte) (s t : State), s.HoldsRemainder cfg message → step s = .next t →
    t.HoldsRemainder cfg (message ++ bytesOf (s.pending.take 1)) ∧ t.pending = s.pending.drop 1

/-- R113 (the spec's own inference, log 16), R101: the register after reset is the remainder of the empty message, for
the open configuration (log 3). -/
def Obligations.ResetHoldsTheRemainderOfTheEmptyMessage : Prop :=
  State.reset.HoldsRemainder Config.cfg []

/-- Section 4.7 of spec/95_test_vectors.md (the spec's own inference): where `xorOut` is zero and the two reflection
flags are equal, feeding the checksum back, high byte first without reflection and low byte first with it, brings
the register to zero. -/
def Obligations.OwnChecksumBringsTheRegisterToZero : Prop :=
  ∀ (cfg : Cfg) (r : Word16), cfg.xorOut = 0#16 → cfg.reflectIn = cfg.reflectOut →
    processBytes cfg r (if cfg.reflectOut then
        [(checksum cfg r).extractLsb' 0 8, (checksum cfg r).extractLsb' 8 8]
      else [(checksum cfg r).extractLsb' 8 8, (checksum cfg r).extractLsb' 0 8]) = 0#16

/-! ### Several instances -/

/-- R36, R53 (instances as the product of log 10): whatever happens to one instance, a step, a `CONSTRUCT` or another
action of its host, changes no other instance, and actions of two instances can be exchanged. -/
def Obligations.InstancesShareNothing : Prop :=
  (∀ (sys : System) (a : Action) (k j : Nat), j ≠ k → (sys.actAt k a)[j]? = sys[j]?) ∧
  ∀ (sys : System) (a b : Action) (k j : Nat), j ≠ k → (sys.actAt k a).actAt j b = (sys.actAt j b).actAt k a

/-- R149 (instances as the product of log 10): any interleaving of the actions of several instances gives each
instance the state that its own actions, in their own order, give it alone. Where these are `n` steps, it is the state
after `n` steps alone if they go on. The last clause, on a refusal, says more than R149: the refused command changes no
state and has no result (R142), and that it stays at the head, so that the instance stands before it and its further
steps do nothing, is the model's choice (log 21); the spec does not say so. -/
def Obligations.AnyInterleavingGivesEachInstanceItsOwnRun : Prop :=
  ∀ (schedule : Schedule) (sys : System),
    (sys.runSchedule schedule).length = sys.length ∧
    ∀ (k : Nat) (s : State), sys[k]? = some s →
      (sys.runSchedule schedule)[k]? = some ((schedule.own k).foldl State.act s) ∧
      ∀ n : Nat, schedule.own k = List.replicate n .step →
        (∀ t : State, run n s = .next t → (sys.runSchedule schedule)[k]? = some t) ∧
        ∀ r : Refusal, run n s = .refused r → ∃ (m : Nat) (u : State), m < n ∧ run m s = .next u ∧
          step u = .refused r ∧ (sys.runSchedule schedule)[k]? = some { u with dout := none }

/-! ### The instance by itself -/

/-- R20, R27: the machine, on a constructed instance, is the instance's own step function, whose state is one 16-bit
vector and whose parameter is the configuration bound by `CONSTRUCT`: instruction by instruction, and command by
command. That the machine keeps the parameter beside that state is the model's choice (log 2), as is the list of
commands (log 1). -/
def Obligations.TheMachineRunsTheParameterisedInstance : Prop :=
  (∀ (i : Instr) (s : State) (e : Engine), s.engine = some e →
    exec i s = .next { s with
      engine := some { cfg := e.cfg, reg := (instanceStep e.cfg i e.reg).1 }, dout := (instanceStep e.cfg i e.reg).2 }) ∧
  (∀ (cfg : Cfg) (s : State), (s.construct cfg).engine = some { cfg := cfg, reg := constructInstance cfg }) ∧
  ∀ (cfg : Cfg) (r : InstanceState) (c : Command) (rest : List Command) (d : Option Word64),
    step { engine := some { cfg := cfg, reg := r }, pending := c :: rest, dout := d } =
      match instanceCommand cfg c r with
      | .ok (r', d') => .next { engine := some { cfg := cfg, reg := r' }, pending := rest, dout := d' }
      | .error (.reservedCode op) => .refused (.reservedCode op)

/-! ### Issue order -/

/-- R50, R101 (the commands issued stand in the model's own list, log 1): what is issued takes effect in issue order,
CONSTRUCT too. When the block has taken all commands issued, nothing is pending and the register is the fold of the
bytes of the `PROCESS` commands among them, or there is still no instance; refused ones, which the host passes over
(log 6), leave no trace. A `CONSTRUCT` after them leaves the same state whether the block had taken all, some or none
of them (log 9). And a `GET` answers the checksum of exactly the bytes of the `PROCESS` commands issued before it since
the last `CONSTRUCT`, whatever was pending when that came and whatever is issued behind the `GET`. -/
def Obligations.OperationsTakeEffectInIssueOrder : Prop :=
  ∀ s : State,
    s.finish.pending = [] ∧
    s.finish.engine = s.engine.map (fun e => { e with reg := processBytes e.cfg e.reg (bytesOf s.pending) }) ∧
    ∀ cfg : Cfg,
      s.finish.construct cfg = s.construct cfg ∧
      (∀ (n : Nat) (t : State), run n s = .next t → t.construct cfg = s.construct cfg) ∧
      ∀ cs rest : List Command, (∀ c ∈ cs, c.codeAssigned = true) →
        ∃ t : State, run (cs.length + 1) ((s.construct cfg).issue (cs ++ encode .get :: rest)) = .next t ∧
          t.pending = rest ∧
          t.dout = some ((checksum cfg (processBytes cfg cfg.initialValue (bytesOf cs))).setWidth 64)
end

