-- ==== Sys2Proof/Laws/Crc.lean ====
section
/-! SUPPORT. Bit steps and buffers, cut and joined. -/

namespace Sys2Proof.Machine

@[simp] theorem bitSteps_zero (p r : Word16) : bitSteps p 0 r = r := rfl

theorem bitSteps_succ (p : Word16) (n : Nat) (r : Word16) :
    bitSteps p (n + 1) r = bitSteps p n (bitStep p r) := rfl

/-- The last of several bit steps can be split off, as the first can. -/
theorem bitSteps_succ' (p : Word16) (n : Nat) (r : Word16) :
    bitSteps p (n + 1) r = bitStep p (bitSteps p n r) := by
  induction n generalizing r with
  | zero => rfl
  | succ n ih => rw [bitSteps_succ, ih, ← bitSteps_succ]

@[simp] theorem processBytes_nil (cfg : Cfg) (r : Word16) : processBytes cfg r [] = r := rfl

@[simp] theorem processBytes_cons (cfg : Cfg) (r : Word16) (b : Byte) (bs : List Byte) :
    processBytes cfg r (b :: bs) = processBytes cfg (processByte cfg r b) bs := rfl

/-- A buffer can be cut anywhere (spec/41_crc_engine.md R108). -/
theorem processBytes_append (cfg : Cfg) (r : Word16) (as bs : List Byte) :
    processBytes cfg r (as ++ bs) = processBytes cfg (processBytes cfg r as) bs := by
  simp [processBytes]

end Sys2Proof.Machine
end

