-- ==== Sys2Proof/Laws/State.lean ====
section
/-! SUPPORT. One lemma per field per update of the state. -/

namespace Sys2Proof.Machine

variable (s : State) {n : Nat} (v : BitVec n) (e : Engine) (out : InstanceState × Option Word64) (cfg : Cfg) (cs : List Command)

@[simp] theorem State.answer_engine : (s.answer v).engine = s.engine := rfl
@[simp] theorem State.answer_pending : (s.answer v).pending = s.pending := rfl
@[simp] theorem State.answer_dout : (s.answer v).dout = some (placeResult v) := rfl

@[simp] theorem State.silent_engine : s.silent.engine = s.engine := rfl
@[simp] theorem State.silent_pending : s.silent.pending = s.pending := rfl
@[simp] theorem State.silent_dout : s.silent.dout = none := rfl

@[simp] theorem State.idle_engine : s.idle.engine = s.engine := rfl
@[simp] theorem State.idle_pending : s.idle.pending = s.pending := rfl
@[simp] theorem State.idle_dout : s.idle.dout = none := rfl

@[simp] theorem State.complete_engine : (s.complete e out).engine = some { e with reg := out.1 } := rfl
@[simp] theorem State.complete_pending : (s.complete e out).pending = s.pending := rfl
@[simp] theorem State.complete_dout : (s.complete e out).dout = out.2 := rfl

@[simp] theorem State.construct_engine :
    (s.construct cfg).engine = some { cfg := cfg, reg := cfg.initialValue } := rfl
@[simp] theorem State.construct_pending : (s.construct cfg).pending = [] := rfl
/-- Nothing of an earlier state is left by `CONSTRUCT` (spec/70_reset_and_hazards.md R160). -/
theorem State.construct_eq (t : State) : s.construct cfg = t.construct cfg := rfl
@[simp] theorem State.construct_dout : (s.construct cfg).dout = none := rfl

@[simp] theorem State.constructOver_engine : (s.constructOver cfg).engine = (s.construct cfg).engine := rfl
@[simp] theorem State.constructOver_pending : (s.constructOver cfg).pending = [] := rfl
@[simp] theorem State.constructOver_dout : (s.constructOver cfg).dout = none := rfl

@[simp] theorem State.issue_engine : (s.issue cs).engine = s.engine := rfl
@[simp] theorem State.issue_pending : (s.issue cs).pending = s.pending ++ cs := rfl
@[simp] theorem State.issue_dout : (s.issue cs).dout = s.dout := rfl

@[simp] theorem State.skip_engine : s.skip.engine = s.engine := rfl
@[simp] theorem State.skip_pending : s.skip.pending = s.pending.drop 1 := rfl
@[simp] theorem State.skip_dout : s.skip.dout = none := rfl

end Sys2Proof.Machine
end

