-- ==== Sys2Proof/Laws/Ops.lean ====
section
/-! SUPPORT. What each shared operation can do, said once. -/

namespace Sys2Proof.Machine

/-- The low bits of a placed result are the value's, and the bits above it are zero. -/
theorem placeResult_getLsbD {n : Nat} (v : BitVec n) (i : Nat) :
    (placeResult v).getLsbD i = (decide (i < 64) && v.getLsbD i) := by
  simp [placeResult]

/-- An operand reads the low bits of the bus. -/
theorem operand_getLsbD (n : Nat) (din : Word64) (i : Nat) :
    (operand n din).getLsbD i = (decide (i < n) && din.getLsbD i) := by
  simp [operand]

/-- An operand of at most 64 bits placed on the bus is read back. -/
theorem operand_placeOperand {n : Nat} (h : n ≤ 64) (v : BitVec n) : operand n (placeOperand v) = v := by
  simp [operand, placeOperand, BitVec.setWidth_setWidth_of_le _ h]

/-- Taking a command fails exactly where nothing was issued. -/
theorem State.takeCommand_eq_none {s : State} : s.takeCommand = none ↔ s.pending = [] := by
  cases h : s.pending <;> simp [State.takeCommand, h]

/-- Taking a command gives the head of the stream and leaves its tail. -/
theorem State.takeCommand_eq_some {s s' : State} {c : Command} :
    s.takeCommand = some (c, s') ↔ ∃ rest, s.pending = c :: rest ∧ s' = { s with pending := rest } := by
  unfold State.takeCommand
  split
  · simp_all
  · rename_i c' rest h
    constructor
    · intro heq
      simp only [Option.some.injEq, Prod.mk.injEq] at heq
      exact ⟨rest, heq.1 ▸ h, heq.2.symm⟩
    · rintro ⟨rest', hp, rfl⟩
      obtain ⟨rfl, rfl⟩ := List.cons.inj (h.symm.trans hp)
      rfl

theorem withEngine_of_some {m : String} {s : State} {e : Engine} (h : s.engine = some e)
    (k : Engine → Host.Outcome State Fault Refusal) : withEngine m s k = k e := by
  simp [withEngine, h]

theorem withEngine_of_none {m : String} {s : State} (h : s.engine = none)
    (k : Engine → Host.Outcome State Fault Refusal) : withEngine m s k = .refused (.unconstructed m) := by
  simp [withEngine, h]

/-- An engine operation that goes on does so on the instance there is. -/
theorem withEngine_eq_next {m : String} {s t : State} {k : Engine → Host.Outcome State Fault Refusal}
    (h : withEngine m s k = .next t) : ∃ e, s.engine = some e ∧ k e = .next t := by
  cases he : s.engine with
  | none => rw [withEngine_of_none he] at h; cases h
  | some e => exact ⟨e, rfl, by rwa [withEngine_of_some he] at h⟩

/-- Every instruction that goes on either answers a result and writes nothing, or is a `PROCESS` that writes the
register of the instance and answers nothing. -/
theorem exec_cases {i : Instr} {s t : State} (h : exec i s = .next t) :
    (∃ d : Word64, (∀ k, resultWidth i ≤ k → d.getLsbD k = false) ∧ (∀ b, i ≠ .process b) ∧
        t = { s with dout := some d }) ∨
      ∃ b e, i = .process b ∧ s.engine = some e ∧
        t = { s with engine := some { e with reg := processByte e.cfg e.reg b }, dout := none } := by
  have high : ∀ {n : Nat} (v : BitVec n) (k : Nat), n ≤ k → (placeResult v).getLsbD k = false := by
    intro n v k hk
    simp [placeResult_getLsbD, BitVec.getLsbD_of_ge v k hk]
  cases i with
  | reflect8 v => cases h; exact .inl ⟨_, high _, by simp, rfl⟩
  | reflect16 v => cases h; exact .inl ⟨_, high _, by simp, rfl⟩
  | reflect32 v => cases h; exact .inl ⟨_, high _, by simp, rfl⟩
  | reflect64 v => cases h; exact .inl ⟨_, high _, by simp, rfl⟩
  | process b =>
    obtain ⟨e, he, hk⟩ := withEngine_eq_next h
    cases hk
    exact .inr ⟨b, e, rfl, he, rfl⟩
  | get =>
    obtain ⟨e, he, hk⟩ := withEngine_eq_next h
    cases hk
    exact .inl ⟨placeResult (checksum e.cfg e.reg), high _, by simp, by simp [State.complete, instanceGet, ← he]⟩

/-- A step that goes on was idle, or ran the instruction of the next command. -/
theorem step_cases {s t : State} (h : step s = .next t) :
    (s.pending = [] ∧ t = { s with dout := none }) ∨
      ∃ c rest i, s.pending = c :: rest ∧ decode c = .ok i ∧ exec i { s with pending := rest } = .next t := by
  unfold step at h
  split at h
  · rename_i hn
    cases h
    exact .inl ⟨State.takeCommand_eq_none.mp hn, rfl⟩
  · rename_i c s' hs
    obtain ⟨rest, hp, rfl⟩ := State.takeCommand_eq_some.mp hs
    split at h
    · rename_i i hi
      exact .inr ⟨c, rest, i, hp, hi, h⟩
    · cases h

end Sys2Proof.Machine
end

