-- ==== Sys2Proof/Laws/Fetch.lean ====
section
/-! SUPPORT. A command of a known word, put where the step takes its next command, is what the step runs. -/

namespace Sys2Proof.Machine

/-- The step after `withFetchWord` runs the instruction that the decoder reads from the word. -/
theorem step_withFetchWord {nbits w : Nat} {i : Instr} (s : State) (h : decodeTableWord nbits w = some i) :
    step (s.withFetchWord nbits w) = exec i { s with pending := s.pending.drop 1 } := by
  unfold decodeTableWord at h
  split at h
  · rename_i i' hd
    cases h
    simp [step, State.withFetchWord, State.takeCommand, hd]
  · cases h

end Sys2Proof.Machine
end

