-- ==== Sys2Proof/Laws/PerInstr.lean ====
section
/-! SUPPORT. The family of statements that are made per instruction: the encoder writes canonical commands
(spec/30_encoding.md R61, R64). -/

namespace Sys2Proof.Laws.EncodesCanonically

/-- The command of a well-formed instruction has an assigned code and zeros above the operand. -/
def Statement (i : Instr) : Prop := i.wf = true → (encode i).wf = true

theorem placed_shift {n : Nat} (v : BitVec n) : Machine.placeOperand v >>> n = 0#64 := by
  ext k hk
  simp [Machine.placeOperand, BitVec.getElem_ushiftRight]

theorem reflect8 (v : Byte) : Statement (.reflect8 v) := fun _ => by
  simp [Command.wf, Command.codeAssigned, Command.unusedZero, Machine.operandWidth, encode, placed_shift]

theorem reflect16 (v : Word16) : Statement (.reflect16 v) := fun _ => by
  simp [Command.wf, Command.codeAssigned, Command.unusedZero, Machine.operandWidth, encode, placed_shift]

theorem reflect32 (v : Word32) : Statement (.reflect32 v) := fun _ => by
  simp [Command.wf, Command.codeAssigned, Command.unusedZero, Machine.operandWidth, encode, placed_shift]

theorem reflect64 (v : Word64) : Statement (.reflect64 v) := fun _ => by
  simp [Command.wf, Command.codeAssigned, Command.unusedZero, Machine.operandWidth, encode, placed_shift]

theorem process (b : Byte) : Statement (.process b) := fun _ => by
  simp [Command.wf, Command.codeAssigned, Command.unusedZero, Machine.operandWidth, encode, placed_shift]

theorem get : Statement .get := fun _ => by decide

end Sys2Proof.Laws.EncodesCanonically
end

