-- ==== Sys2Proof/Laws/Reflector.lean ====
section
/-! SUPPORT. The bits of the reflector's shared helpers. -/

namespace Sys2Proof.Machine

/-- The bits of the partial reversal. -/
theorem reflectBits_getLsbD {w : Nat} (v : BitVec w) (n i : Nat) (h : i < n) :
    (reflectBits v n).getLsbD i = v.getLsbD (w - 1 - i) := by
  induction n with
  | zero => omega
  | succ n ih =>
    rw [reflectBits, BitVec.getLsbD_cons]
    by_cases hi : i = n
    · simp [hi]
    · simpa [hi] using ih (by omega)

/-- The bits of a mask. -/
theorem maskBits_getLsbD (s n i : Nat) (h : i < n) :
    (maskBits s n).getLsbD i = decide (i / s % 2 = 0) := by
  induction n with
  | zero => omega
  | succ n ih =>
    rw [maskBits, BitVec.getLsbD_cons]
    by_cases hi : i = n
    · subst hi; simp [beq_eq_decide]
    · simpa [hi] using ih (by omega)

end Sys2Proof.Machine
end

