-- ==== Sys2Proof/Laws/Run.lean ====
section
/-! SUPPORT. Runs of several steps, unfolded and joined. -/

namespace Sys2Proof.Machine

@[simp] theorem run_zero (s : State) : run 0 s = .next s := rfl

theorem run_succ_of_next {n : Nat} {s t : State} (h : step s = .next t) : run (n + 1) s = run n t := by
  simp only [run, h]

/-- A run that goes on through `m` steps can be continued from where it stands. -/
theorem run_add_of_next {m n : Nat} {s t : State} (h : run m s = .next t) : run (m + n) s = run n t := by
  induction m generalizing s with
  | zero => cases h; rw [Nat.zero_add]
  | succ m ih =>
    simp only [run] at h
    split at h
    · rename_i u hu
      rw [Nat.add_right_comm, run_succ_of_next hu, ih h]
    · cases h
    · cases h

/-- The runs that statements speak of are the host's. -/
theorem run_eq_core_run (n : Nat) (s : State) : run n s = Sys2Proof.core.run n s := by
  induction n generalizing s with
  | zero => rfl
  | succ n ih =>
    have hs : Sys2Proof.core.step s = step s := rfl
    refine Eq.trans ?_ (Host.Core.run.eq_2 Sys2Proof.core s n).symm
    rw [run, hs]
    cases step s with
    | next t => exact ih t
    | fault f => cases f
    | refused r => rfl

end Sys2Proof.Machine
end

