-- ==== Sys2Proof/Laws/System.lean ====
section
/-! SUPPORT. One action of one instance in a list of instances, said once. -/

namespace Sys2Proof.Machine

/-- A step that goes on is what an attempt does. -/
theorem State.attempt_of_next {s t : State} (h : step s = .next t) : s.attempt = t := by
  simp only [State.attempt, h]

/-- A refused attempt only leaves the result bus undriven. -/
theorem State.attempt_of_refused {s : State} {r : Refusal} (h : step s = .refused r) :
    s.attempt = { s with dout := none } := by
  simp only [State.attempt, h]; rfl

@[simp] theorem System.actAt_length (sys : System) (k : Nat) (a : Action) : (sys.actAt k a).length = sys.length := by
  simp [System.actAt]

/-- An action changes the instance it happens to, and that one as it would alone. -/
theorem System.actAt_getElem? (sys : System) (k j : Nat) (a : Action) :
    (sys.actAt k a)[j]? = if k = j then sys[j]?.map fun s => s.act a else sys[j]? := by
  rw [System.actAt, List.getElem?_modify]
  split <;> simp

end Sys2Proof.Machine
end

