-- ==== Sys2Proof/Tests/Slice0.lean ====
section
/-! SUPPORT. Tests of one step each, with expected values from spec/95_test_vectors.md and the rules it evaluates;
the smoke test of WellFormed; and a witness for the hypotheses of every statement that has some. -/

namespace Sys2Proof.Tests

open Sys2Proof Sys2Proof.Machine

set_option maxRecDepth 20000

/-- An instance of a configuration with a given register, nothing issued. -/
def holding (cfg : Cfg) (r : Word16) : State := { engine := some { cfg := cfg, reg := r }, pending := [], dout := none }

/-- What an outcome leaves in the register and on `dout`. -/
def seen (o : Host.Outcome State Fault Refusal) : Option (Option Word16 × Option Word64) :=
  (nextState o).map fun t => (t.engine.map (·.reg), t.dout)

/-- Two states agree with an outcome: it is a next state and exactly this one. -/
def goesTo (o : Host.Outcome State Fault Refusal) (t : State) : Bool := nextState o == some t

theorem eq_next_of_goesTo {o : Host.Outcome State Fault Refusal} {t : State} (h : goesTo o t = true) : o = .next t := by
  cases o with
  | next s => simp only [goesTo, nextState, beq_iff_eq, Option.some.injEq] at h; rw [h]
  | fault f => cases f
  | refused r => simp [goesTo, nextState] at h

/-! ### WellFormed: each check refuses an ill-formed command -/

theorem test_reserved_code_is_ill_formed : Command.wf ⟨0b110#3, 0#64⟩ = false := by decide
theorem test_reserved_code_not_assigned : Command.codeAssigned ⟨0b111#3, 0#64⟩ = false := by decide
theorem test_bit_above_operand_is_ill_formed : Command.wf ⟨0b000#3, 0x100#64⟩ = false := by decide
theorem test_operand_of_get_is_ill_formed : Command.wf ⟨0b101#3, 1#64⟩ = false := by decide
theorem test_full_operand_is_well_formed : Command.wf ⟨0b011#3, 0xFFFFFFFFFFFFFFFF#64⟩ = true := by decide

/-! ### Decoding: words written out from R61, R62, R63, R65; the last rows are those of section 3.7 -/

theorem test_decode_reflect8 : decode ⟨0b000#3, 0x80#64⟩ = .ok (.reflect8 0x80#8) := by rfl
theorem test_decode_reflect16 : decode ⟨0b001#3, 0x8000#64⟩ = .ok (.reflect16 0x8000#16) := by rfl
theorem test_decode_reflect32 : decode ⟨0b010#3, 0x80000000#64⟩ = .ok (.reflect32 0x80000000#32) := by rfl
theorem test_decode_reflect64 :
    decode ⟨0b011#3, 0x8000000000000000#64⟩ = .ok (.reflect64 0x8000000000000000#64) := by rfl
theorem test_decode_process : decode ⟨0b100#3, 0x31#64⟩ = .ok (.process 0x31#8) := by rfl
theorem test_decode_get : decode ⟨0b101#3, 0x0#64⟩ = .ok .get := by rfl
theorem test_decode_reserved : decode ⟨0b110#3, 0x31#64⟩ = .error (.reservedCode 0b110#3) := by rfl
theorem test_upper_bits_ignored_reflect8 : decode ⟨0b000#3, 0xFFFFFFFFFFFFFF80#64⟩ = .ok (.reflect8 0x80#8) := by rfl
theorem test_upper_bits_ignored_process : decode ⟨0b100#3, 0x1231#64⟩ = .ok (.process 0x31#8) := by rfl
theorem test_operand_ignored_get : decode ⟨0b101#3, 0xFFFFFFFFFFFFFFFF#64⟩ = .ok .get := by rfl
theorem test_table_words : (List.range 8).map (decodeTableWord 8) =
    [some (.reflect8 0), some (.reflect16 0), some (.reflect32 0), some (.reflect64 0), some (.process 0), some .get,
      none, none] := by decide
theorem test_table_word_of_process_0x31 : decodeTableWord 67 (0x31 * 8 + 4) = some (.process 0x31#8) := by decide

/-! ### The reflector: R82 to R85 and section 3 -/

theorem test_reflect8 : seen (exec (.reflect8 0x31#8) .powerUp) = some (none, some 0x8C#64) := by decide
theorem test_reflect16_is_no_byte_swap :
    seen (exec (.reflect16 0x1234#16) .powerUp) = some (none, some 0x2C48#64) := by decide
theorem test_reflect32 : seen (exec (.reflect32 0x12345678#32) .powerUp) = some (none, some 0x1E6A2C48#64) := by
  decide
theorem test_reflect64 : seen (exec (.reflect64 0x0123456789ABCDEF#64) .powerUp) =
    some (none, some 0xF7B3D591E6A2C480#64) := by decide
theorem test_stage_masks : stageMask 32 8 = 0x00FF00FF#32 ∧ stageMask 8 1 = 0x55#8 := by decide
theorem test_first_stage_32 : reflectStage 0x12345678#32 16 = 0x56781234#32 := by decide
theorem test_staged_64 : reflectStaged 6 0x0123456789ABCDEF#64 = 0xF7B3D591E6A2C480#64 := by decide

/-! ### The bit step and the mix: section 4.1, and R103 -/

theorem test_bit_step_top_set : bitStep 0x1021#16 0xFFFF#16 = 0xEFDF#16 := by decide
theorem test_bit_step_top_clear : bitStep 0x1021#16 0x7FFF#16 = 0xFFFE#16 := by decide
theorem test_mix : mix 0x2672#16 0x32#8 = 0x1472#16 := by decide

/-! ### PROCESS: section 4.2 -/

theorem test_process_xmodem :
    seen (exec (.process 0x31#8) (holding presetXmodem 0x0000#16)) = some (some 0x2672#16, none) := by decide
theorem test_process_kermit_reflects_the_byte :
    seen (exec (.process 0x32#8) (holding presetKermit 0x5004#16)) = some (some 0xD7BD#16, none) := by decide

/-! ### GET: section 4.3 -/

theorem test_get_kermit : seen (exec .get (holding presetKermit 0x9184#16)) = some (some 0x9184#16, some 0x2189#64) := by
  decide
theorem test_get_does_not_reflect_xorOut :
    seen (exec .get (holding ⟨0x1021#16, 0#16, true, true, 0x8000#16⟩ 0x1234#16)) =
      some (some 0x1234#16, some 0xAC48#64) := by decide

/-! ### The step, the host's actions, several instances: programs P3 and P5 -/

theorem test_step_takes_the_head :
    seen (step ((holding presetIbm3740 0xFFFF#16).issue [⟨0b100#3, 0x1231#64⟩])) = some (some 0xC782#16, none) := by
  decide
theorem test_step_idle : goesTo (step { holding presetXmodem 5#16 with dout := some 7#64 }) (holding presetXmodem 5#16) =
    true := by decide
theorem test_reserved_refused : step { State.powerUp with pending := [⟨0b111#3, 0#64⟩] } =
    .refused (.reservedCode 0b111#3) := by rfl
theorem test_skip_after_refusal :
    ((holding presetIbm3740 0xC782#16).issue [⟨0b110#3, 0#64⟩, ⟨0b101#3, 0#64⟩]).skip =
      (holding presetIbm3740 0xC782#16).issue [⟨0b101#3, 0#64⟩] := by decide
theorem test_unconstructed_process : exec (.process 0x31#8) .powerUp = .refused (.unconstructed "PROCESS") := by rfl
theorem test_construct_discards_the_register :
    (holding presetIbm3740 0xC782#16).construct presetIbm3740 = holding presetIbm3740 0xFFFF#16 := by decide
theorem test_construct_over_wins :
    ((holding presetIbm3740 0xC782#16).issue [⟨0b100#3, 0#64⟩, ⟨0b101#3, 0#64⟩]).constructOver presetIbm3740 =
      holding presetIbm3740 0xFFFF#16 := by decide
theorem test_refused_before_construct_never_acts : -- program P5, lines 1 to 3
    (State.powerUp.issue [⟨0b100#3, 0x31#64⟩, ⟨0b101#3, 0#64⟩]).attempt.construct presetIbm3740 =
      holding presetIbm3740 0xFFFF#16 := by decide
theorem test_finish_passes_over_refusals : -- program P5, lines 4 to 6
    ((holding presetIbm3740 0xFFFF#16).issue [⟨0b100#3, 0x31#64⟩, ⟨0b110#3, 0#64⟩, ⟨0b111#3, 0#64⟩]).finish =
      holding presetIbm3740 0xC782#16 := by decide
theorem test_first_step_after_reset : (nextState (step (State.reset.withFetchWord 8 4))).isSome = true := by decide
/-- A reserved code at one instance stops only that one: program P5's refusal beside program P3's instance B. -/
def refusedBeside : System :=
  [(holding presetIbm3740 0xC782#16).issue [⟨0b110#3, 0#64⟩], (holding presetSpiFujitsu 0x1D0F#16).issue [⟨0b100#3, 0x31#64⟩]]
theorem test_a_refusal_stops_no_other_instance :
    (refusedBeside.runSchedule [(0, .step), (1, .step), (0, .step)]).map (·.engine.map (·.reg)) =
      [some 0xC782#16, some 0xEAEE#16] := by decide
theorem test_construct_in_an_interleaving :
    (System.runSchedule [(1, .construct presetIbm3740), (0, .step), (1, .issue [⟨0b100#3, 0x31#64⟩]), (1, .step)]
      [holding presetSpiFujitsu 0xEAEE#16, State.powerUp]).map (·.engine.map (·.reg)) =
      [some 0xEAEE#16, some 0xC782#16] := by decide
theorem test_instance_step_xmodem : instanceStep presetXmodem (.process 0x31#8) 0x0000#16 = (0x2672#16, none) := by decide

/-! ### Pseudo-instructions and the written form: R62, R70, R72 -/

theorem test_process_text :
    processTextCommands ['1', '2'] = [⟨0b100#3, 0x31#64⟩, ⟨0b100#3, 0x32#64⟩] := by decide
theorem test_reflect_pseudo : reflectCommands 0b01#2 0x8000#16 = [⟨0b001#3, 0x8000#64⟩] := by decide
theorem test_written_process : encodingText (.process 0x31#8) = ['1', '0', '0', ':', '3', '1'] := by decide
theorem test_written_get : encodingText .get = ['1', '0', '1', ':', '-'] := by decide
theorem test_written_reflect16 : encodingText (.reflect16 0xABCD#16) = ['0', '0', '1', ':', 'A', 'B', 'C', 'D'] := by
  decide
theorem test_ofWord_toWord : Command.ofWord (Command.toWord ⟨0b100#3, 0x8000000000000031#64⟩) =
    ⟨0b100#3, 0x8000000000000031#64⟩ := by decide

/-! ### Witnesses: the hypotheses of the statements can be met together -/

theorem witness_ReflectReversesTheBitOrder : 8 ∈ [8, 16, 32, 64] ∧ 0 < 8 ∧ 64 ∈ [8, 16, 32, 64] ∧ 63 < 64 := by decide
theorem witness_Reflect8ReversesEightBits : 0 < 8 ∧ 7 < 8 ∧ 8 ≤ 8 ∧ 8 < 64 ∧ 8 ≤ 63 ∧ 63 < 64 := by decide
theorem witness_Reflect16ReversesSixteenBits : 0 < 16 ∧ 15 < 16 ∧ 16 ≤ 16 ∧ 16 < 64 ∧ 16 ≤ 63 ∧ 63 < 64 := by decide
theorem witness_Reflect32ReversesThirtyTwoBits : 0 < 32 ∧ 31 < 32 ∧ 32 ≤ 32 ∧ 32 < 64 ∧ 32 ≤ 63 ∧ 63 < 64 := by decide
theorem witness_Reflect64ReversesSixtyFourBits : 0 < 64 ∧ 63 < 64 := by decide
theorem witness_ReflectTwiceIsIdentity : 8 ∈ [8, 16, 32, 64] ∧ 64 ∈ [8, 16, 32, 64] := by decide
theorem witness_ReflectRespectsBitwiseStructure : 32 ∈ [8, 16, 32, 64] ∧ 0 < 32 ∧ 31 < 32 := by decide
theorem witness_StagedAlgorithmComputesReflection :
    3 ∈ [3, 4, 5, 6] ∧ 7 < 2 ^ 3 ∧ 6 ∈ [3, 4, 5, 6] ∧ 63 < 2 ^ 6 ∧ [1, 4, 2].Perm (stageSizes 3) := by decide
theorem witness_ReflectorAndEngineDoNotInteract :
    (∃ v, Instr.reflect8 0x31#8 = .reflect8 v) ∧ (∃ v, Instr.reflect16 0x8000#16 = .reflect16 v) ∧
      (∃ v, Instr.reflect32 0x80000000#32 = .reflect32 v) ∧ (∃ v, Instr.reflect64 0#64 = .reflect64 v) :=
  ⟨⟨_, rfl⟩, ⟨_, rfl⟩, ⟨_, rfl⟩, ⟨_, rfl⟩⟩
theorem witness_BitStepShiftsAndConditionallyXors : 0 < 15 ∧ 14 < 15 := by decide
theorem witness_InputReflectionIsSelectedByReflectIn : 0 < 8 ∧ 7 < 8 := by decide
theorem witness_ProcessFoldsOneByteIntoTheRegister :
    (holding presetKermit 0x5004#16).engine = some ⟨presetKermit, 0x5004#16⟩ ∧ 0 < 8 ∧ 7 < 8 := by decide
theorem witness_ProcessIsLinearOverXor :
    mix 0x1200#16 (inputByte presetXmodem 0x34#8) = mix 0x3400#16 (inputByte presetXmodem 0x12#8) := by decide
theorem witness_TableDrivenEngineComputesTheSame : presetXmodem.polynomial = 0x1021#16 := by decide
theorem witness_CancelledBytesShiftTheLowByteUp_byte : inputByte presetIbm3740 0xFF#8 = (0xFFFF#16).extractLsb' 8 8 := by
  decide
theorem witness_CancelledBytesShiftTheLowByteUp_polynomial :
    (⟨0#16, 0x1234#16, false, false, 0#16⟩ : Cfg).polynomial = 0#16 := by decide
theorem witness_CancelledBytesShiftTheLowByteUp_zero : (0#16 = 0#16) ∧ (0#8 = 0#8) := by decide
theorem witness_EachCommandReadsOnlyItsOwnConfigurationFields :
    (holding presetXmodem 0x2672#16).engine = some ⟨presetXmodem, 0x2672#16⟩ := by decide
theorem witness_GetReturnsTheChecksum :
    (holding presetKermit 0x9184#16).engine = some ⟨presetKermit, 0x9184#16⟩ ∧ 0 < 16 ∧ 15 < 16 ∧ 16 ≤ 16 ∧ 16 < 64 ∧
      16 ≤ 63 ∧ 63 < 64 := by decide
theorem witness_GetIsASnapshotRead : exec .get (holding presetXmodem 0x2672#16) =
    .next { holding presetXmodem 0x2672#16 with dout := some 0x2672#64 } := eq_next_of_goesTo (by decide)
theorem witness_GetIsASnapshotRead_between : -- program P2, lines 15 to 17
    exec .get (holding presetKermit 0x9184#16) =
      .next { holding presetKermit 0x9184#16 with dout := some 0x2189#64 } ∧
    ∀ i ∈ [Instr.reflect16 0x2189#16, .get], ∀ b, i ≠ .process b :=
  ⟨eq_next_of_goesTo (by decide), by simp⟩
theorem witness_ResetWinsOverTheCommandInFlight :
    ((holding presetIbm3740 0#16).issue [⟨0b100#3, 0x31#64⟩]).pending = ⟨0b100#3, 0x31#64⟩ :: [] := by decide
theorem witness_UnconstructedEngineCommandsAreRefused : State.powerUp.engine = none := by decide
theorem witness_ReservedCodesAreRefused_110 :
    ((0b110#3 : OpCode) = 0b110#3 ∨ (0b110#3 : OpCode) = 0b111#3) ∧
      (State.powerUp.issue [⟨0b110#3, 0#64⟩]).pending = ⟨0b110#3, 0#64⟩ :: [] := by decide
theorem witness_ReservedCodesAreRefused_111 :
    ((0b111#3 : OpCode) = 0b110#3 ∨ (0b111#3 : OpCode) = 0b111#3) ∧
      ((holding presetXmodem 0#16).issue [⟨0b111#3, 9#64⟩]).pending = ⟨0b111#3, 9#64⟩ :: [] := by decide
theorem witness_BitsOutsideOperandAndResultDoNotMatter_operand :
    operandWidth 0b100#3 = some 8 ∧ (0x1231#64).setWidth 8 = (0x31#64).setWidth 8 := by decide
theorem witness_BitsOutsideOperandAndResultDoNotMatter_result :
    exec .get (holding presetXmodem 0xFFFF#16) = .next { holding presetXmodem 0xFFFF#16 with dout := some 0xFFFF#64 } ∧
      resultWidth .get ≤ 16 := ⟨eq_next_of_goesTo (by decide), by decide⟩
theorem witness_DecodingAnEncodedInstructionGivesItBack : (Instr.reflect64 0xFFFFFFFFFFFFFFFF#64).wf = true := by decide
theorem witness_EncodingADecodedCommandGivesItBack :
    decode ⟨0b100#3, 0x31#64⟩ = .ok (.process 0x31#8) ∧ Command.wf ⟨0b100#3, 0x31#64⟩ = true := ⟨rfl, by decide⟩
theorem witness_StepRunsTheDecodedInstruction :
    (State.powerUp.issue [⟨0b000#3, 0x80#64⟩]).pending = ⟨0b000#3, 0x80#64⟩ :: [] ∧
      decode ⟨0b000#3, 0x80#64⟩ = .ok (.reflect8 0x80#8) ∧ (Instr.reflect8 0x80#8).wf = true := ⟨rfl, rfl, rfl⟩
theorem witness_StepRunsTheDecodedInstruction_idle : State.powerUp.pending = [] := by decide
theorem witness_ReadOnlyCommandsChangeOnlyTheResult :
    (∀ b, Instr.reflect8 0x80#8 ≠ .process b) ∧
      exec (.reflect8 0x80#8) .powerUp = .next { State.powerUp with dout := some 0x01#64 } :=
  ⟨fun _ h => (by cases h), eq_next_of_goesTo (by decide)⟩
theorem witness_ReadOnlyCommandsChangeOnlyTheResult_get :
    (∀ b, Instr.get ≠ .process b) ∧ exec .get (holding presetIbm3740 0xFFFF#16) =
      .next { holding presetIbm3740 0xFFFF#16 with dout := some 0xFFFF#64 } :=
  ⟨fun _ h => (by cases h), eq_next_of_goesTo (by decide)⟩
theorem witness_ProcessChangesOnlyTheRegister :
    exec (.process 0x31#8) (holding presetXmodem 0#16) = .next (holding presetXmodem 0x2672#16) :=
  eq_next_of_goesTo (by decide)
theorem witness_OnlyProcessStepsWriteTheRegister :
    step ((holding presetXmodem 0#16).issue [⟨0b100#3, 0x31#64⟩]) = .next (holding presetXmodem 0x2672#16) ∧
      (holding presetXmodem 0x2672#16).engine ≠ ((holding presetXmodem 0#16).issue [⟨0b100#3, 0x31#64⟩]).engine :=
  ⟨eq_next_of_goesTo (by decide), by decide⟩
theorem witness_ConfigurationIsImmutable :
    step ((holding presetXmodem 0#16).issue [⟨0b100#3, 0x31#64⟩]) = .next (holding presetXmodem 0x2672#16) :=
  eq_next_of_goesTo (by decide)
theorem witness_EveryInstructionCompletesOnAConstructedInstance :
    (holding presetKermit 0xFFFF#16).engine = some ⟨presetKermit, 0xFFFF#16⟩ := by decide
theorem witness_SafeStatesStepToSafeStates :
    ((holding presetXmodem 0#16).issue [⟨0b100#3, 0x31#64⟩, ⟨0b101#3, 0#64⟩]).safe = true := by decide
theorem witness_NothingFaultsAndOnlyTwoThingsAreRefused_reserved :
    step (State.powerUp.issue [⟨0b110#3, 0#64⟩]) = .refused (.reservedCode 0b110#3) := by rfl
theorem witness_NothingFaultsAndOnlyTwoThingsAreRefused_unconstructed :
    step (State.powerUp.issue [⟨0b101#3, 0#64⟩]) = .refused (.unconstructed "GET") := by rfl
theorem witness_RegisterDependsOnlyOnTheBytesIssued :
    (∀ c ∈ [(⟨0b100#3, 0x31#64⟩ : Command), ⟨0b101#3, 0#64⟩], c.codeAssigned = true) ∧
      ((holding presetXmodem 0#16).issue [⟨0b100#3, 0x31#64⟩, ⟨0b101#3, 0#64⟩]).pending =
        [⟨0b100#3, 0x31#64⟩, ⟨0b101#3, 0#64⟩] ++ [] ∧
      ((holding presetXmodem 0#16).issue [⟨0b100#3, 0x31#64⟩, ⟨0b101#3, 0#64⟩]).engine =
        some ⟨presetXmodem, 0#16⟩ := by decide
theorem witness_ChunkingDoesNotMatter : (holding presetXmodem 0#16).engine = some ⟨presetXmodem, 0#16⟩ ∧
    (holding presetXmodem 0#16).pending = [] := by decide
theorem witness_AMessageAfterGetContinuesTheOneBefore :
    (holding presetKermit 0#16).engine = some ⟨presetKermit, 0#16⟩ ∧ (holding presetKermit 0#16).pending = [] := by decide
theorem witness_EqualConfigurationsAndInputsGiveEqualRuns :
    (∀ c ∈ [(⟨0b100#3, 0x31#64⟩ : Command), ⟨0b000#3, 0x31#64⟩] ++ [⟨0b101#3, 0#64⟩, ⟨0b100#3, 0x31#64⟩],
      c.codeAssigned = true) ∧
      bytesOf [⟨0b100#3, 0x31#64⟩, ⟨0b000#3, 0x31#64⟩] = bytesOf [⟨0b101#3, 0#64⟩, ⟨0b100#3, 0x31#64⟩] := by decide
theorem witness_EveryStepKeepsTheRegisterARemainder :
    (holding presetXmodem 0#16).HoldsRemainder presetXmodem [] ∧
      step (holding presetXmodem 0#16) = .next (holding presetXmodem 0#16) := by
  refine ⟨⟨0#16, rfl, by simp [generatorBits, msbBits], 0, ?_⟩, eq_next_of_goesTo (by decide)⟩
  rw [show dividendBits presetXmodem [] = msbBits 0#16 by decide]
  simp
theorem witness_OwnChecksumBringsTheRegisterToZero_kermit :
    presetKermit.xorOut = 0#16 ∧ presetKermit.reflectIn = presetKermit.reflectOut := by decide
theorem witness_OwnChecksumBringsTheRegisterToZero_xmodem :
    presetXmodem.xorOut = 0#16 ∧ presetXmodem.reflectIn = presetXmodem.reflectOut := by decide
theorem witness_InstancesShareNothing : (1 : Nat) ≠ 0 := by decide
theorem witness_AnyInterleavingGivesEachInstanceItsOwnRun_next :
    refusedBeside[1]? = some ((holding presetSpiFujitsu 0x1D0F#16).issue [⟨0b100#3, 0x31#64⟩]) ∧
      Schedule.own 1 [(0, .step), (1, .step), (0, .step)] = List.replicate 1 .step ∧
      run 1 ((holding presetSpiFujitsu 0x1D0F#16).issue [⟨0b100#3, 0x31#64⟩]) =
        .next (holding presetSpiFujitsu 0xEAEE#16) := ⟨rfl, by decide, eq_next_of_goesTo (by decide)⟩
theorem witness_AnyInterleavingGivesEachInstanceItsOwnRun_refused :
    refusedBeside[0]? = some ((holding presetIbm3740 0xC782#16).issue [⟨0b110#3, 0#64⟩]) ∧
      Schedule.own 0 [(0, .step), (1, .step), (0, .step)] = List.replicate 2 .step ∧
      run 2 ((holding presetIbm3740 0xC782#16).issue [⟨0b110#3, 0#64⟩]) = .refused (.reservedCode 0b110#3) :=
  ⟨rfl, by decide, by rfl⟩
theorem witness_OperationsTakeEffectInIssueOrder :
    run 1 ((holding presetXmodem 0#16).issue [⟨0b100#3, 0x31#64⟩]) = .next (holding presetXmodem 0x2672#16) ∧
      ∀ c ∈ [(⟨0b100#3, 0x31#64⟩ : Command), ⟨0b011#3, 0#64⟩], c.codeAssigned = true :=
  ⟨eq_next_of_goesTo (by decide), by decide⟩
theorem witness_TheMachineRunsTheParameterisedInstance :
    (holding presetKermit 0x5004#16).engine = some ⟨presetKermit, 0x5004#16⟩ := by decide

end Sys2Proof.Tests
end

section
/-! The statements about the state of an instance (spec/10_state.md): `PROCESS` alone writes the register, no step
writes the configuration, and the machine runs the instance's step function at the configuration it was constructed
with. -/

namespace Sys2Proof.Machine

/-! ### The step, by what the next command decodes to -/

theorem step_of_decode_ok {s : State} {c : Command} {rest : List Command} {i : Instr} (hp : s.pending = c :: rest)
    (hd : decode c = .ok i) : step s = exec i { s with pending := rest } := by
  simp [step, State.takeCommand, hp, hd]

theorem step_of_decode_error {s : State} {c : Command} {rest : List Command} {err : DecodeError}
    (hp : s.pending = c :: rest) (hd : decode c = .error err) : step s = .refused (refusalOf err) := by
  simp [step, State.takeCommand, hp, hd]

theorem instanceCommand_of_decode_ok {c : Command} {i : Instr} (hd : decode c = .ok i) (cfg : Cfg)
    (r : InstanceState) : instanceCommand cfg c r = .ok (instanceStep cfg i r) := by
  simp [instanceCommand, hd]

theorem instanceCommand_of_decode_error {c : Command} {err : DecodeError} (hd : decode c = .error err) (cfg : Cfg)
    (r : InstanceState) : instanceCommand cfg c r = .error err := by
  simp [instanceCommand, hd]

/-! ### What an instruction does to the engine -/

/-- A reflector command answers as the operation of the instance does, which leaves the register as it is. -/
theorem State.answer_reflect_eq_complete {s : State} {e : Engine} (he : s.engine = some e) {n : Nat} (v : BitVec n) :
    s.answer (reflect v) = s.complete e (instanceReflect v e.reg) := by
  simp [State.answer, State.complete, instanceReflect, ← he]

/-- On a constructed instance every instruction completes, as the step function of the instance has it
(spec/10_state.md R27). -/
theorem exec_eq_complete_instanceStep (i : Instr) {s : State} {e : Engine} (he : s.engine = some e) :
    exec i s = .next (s.complete e (instanceStep e.cfg i e.reg)) := by
  cases i with
  | reflect8 v => exact congrArg _ (State.answer_reflect_eq_complete he v)
  | reflect16 v => exact congrArg _ (State.answer_reflect_eq_complete he v)
  | reflect32 v => exact congrArg _ (State.answer_reflect_eq_complete he v)
  | reflect64 v => exact congrArg _ (State.answer_reflect_eq_complete he v)
  | process b => exact withEngine_of_some he _
  | get => exact withEngine_of_some he _

/-- A `PROCESS` that goes on writes the register of the instance there is, and nothing else. -/
theorem exec_process_eq_next {b : Byte} {s t : State} (h : exec (.process b) s = .next t) :
    ∃ e, s.engine = some e ∧
      t = { s with engine := some { e with reg := processByte e.cfg e.reg b }, dout := none } := by
  obtain ⟨e, he, hk⟩ := withEngine_eq_next h
  cases hk
  exact ⟨e, he, rfl⟩

/-- No instruction writes the configuration, and none makes or unmakes an instance. -/
theorem exec_keeps_cfg {i : Instr} {s t : State} (h : exec i s = .next t) :
    t.engine.map (·.cfg) = s.engine.map (·.cfg) := by
  obtain ⟨d, -, -, rfl⟩ | ⟨b, e, -, he, rfl⟩ := exec_cases h
  · rfl
  · simp [he]

/-- An instruction that goes on and changes the engine is a `PROCESS`. -/
theorem eq_process_of_exec_engine_ne {i : Instr} {s t : State} (h : exec i s = .next t)
    (hne : t.engine ≠ s.engine) : ∃ b, i = .process b := by
  obtain ⟨d, -, -, rfl⟩ | ⟨b, e, hi, -, -⟩ := exec_cases h
  · exact absurd rfl hne
  · exact ⟨b, hi⟩

/-! ### The statements -/

/-- Settles O35: an idle step keeps the engine, and of the instructions only `PROCESS` changes it. -/
theorem onlyProcessStepsWriteTheRegister : Obligations.OnlyProcessStepsWriteTheRegister := by
  intro s t h hne
  obtain ⟨-, rfl⟩ | ⟨c, rest, i, hp, hd, hx⟩ := step_cases h
  · exact absurd rfl hne
  · obtain ⟨b, rfl⟩ := eq_process_of_exec_engine_ne hx hne
    exact ⟨c, rest, b, hp, hd⟩

/-- Settles O36: an idle step keeps the engine, and every instruction keeps its configuration. -/
theorem configurationIsImmutable : Obligations.ConfigurationIsImmutable := by
  intro s t h
  obtain ⟨-, rfl⟩ | ⟨c, rest, i, -, -, hx⟩ := step_cases h
  · rfl
  · exact exec_keeps_cfg (s := { s with pending := rest }) hx

/-- Settles O53: both the machine and the instance follow the decoder, and on a constructed instance each instruction
is the instance's step. -/
theorem theMachineRunsTheParameterisedInstance : Obligations.TheMachineRunsTheParameterisedInstance := by
  refine ⟨fun i s e he => exec_eq_complete_instanceStep i he, fun _ _ => rfl, fun cfg r c rest d => ?_⟩
  cases hd : decode c with
  | ok i =>
    rw [step_of_decode_ok rfl hd, instanceCommand_of_decode_ok hd, exec_eq_complete_instanceStep i rfl]
    rfl
  | error err =>
    rw [step_of_decode_error rfl hd, instanceCommand_of_decode_error hd]
    rfl

/-- Settles O25: without an instance an engine operation is refused under its name. -/
theorem unconstructedEngineCommandsAreRefused : Obligations.UnconstructedEngineCommandsAreRefused :=
  fun _ hn => ⟨fun _ => withEngine_of_none hn _, withEngine_of_none hn _⟩

/-- Settles O34: a `PROCESS` that goes on found an instance, and wrote its register only. -/
theorem processChangesOnlyTheRegister : Obligations.ProcessChangesOnlyTheRegister := by
  intro b s t h
  obtain ⟨e, he, rfl⟩ := exec_process_eq_next h
  exact ⟨rfl, rfl, by simp [he], processByte e.cfg e.reg b, by simp [he]⟩

end Sys2Proof.Machine
end

section
/-! The statements about memory (spec/20_memory.md): `GET` is a snapshot, instances share nothing, and what is issued
takes effect in issue order, so that the register is the fold of the bytes of the `PROCESS` commands. -/

namespace Sys2Proof.Machine

/-! ### The bytes that a command feeds -/

/-- The codes that the decoder accepts are the assigned ones, by the three bits of the code. -/
theorem codeAssigned_iff_decode_ok {c : Command} : c.codeAssigned = true ↔ ∃ i, decode c = .ok i := by
  unfold Command.codeAssigned operandWidth decode
  cases c.op.getLsbD 2 <;> cases c.op.getLsbD 1 <;> cases c.op.getLsbD 0 <;> simp

theorem bytesOf_singleton_of_process {c : Command} {b : Byte} (hd : decode c = .ok (.process b)) :
    bytesOf [c] = [b] := by
  simp [bytesOf, Command.processOperand, hd]

theorem bytesOf_singleton_of_ne_process {c : Command} {i : Instr} (hd : decode c = .ok i)
    (hi : ∀ b, i ≠ .process b) : bytesOf [c] = [] := by
  cases i with
  | process b => exact absurd rfl (hi b)
  | _ => simp [bytesOf, Command.processOperand, hd]

theorem bytesOf_singleton_of_decode_error {c : Command} {err : DecodeError} (hd : decode c = .error err) :
    bytesOf [c] = [] := by
  simp [bytesOf, Command.processOperand, hd]

/-! ### An instance fed with bytes -/

/-- The instance after it has processed the bytes of a buffer, first byte first (spec/41_crc_engine.md R108). -/
def Engine.feed (bytes : List Byte) (e : Engine) : Engine := { e with reg := processBytes e.cfg e.reg bytes }

@[simp] theorem Engine.feed_nil : Engine.feed [] = id := rfl

/-- The bytes of a command and then those of the commands after it are the bytes of them all. -/
theorem Engine.feed_bytesOf_cons (e : Engine) (c : Command) (cs : List Command) :
    (e.feed (bytesOf [c])).feed (bytesOf cs) = e.feed (bytesOf (c :: cs)) := by
  have hcons : bytesOf (c :: cs) = bytesOf [c] ++ bytesOf cs := List.filterMap_append (l := [c])
  simp only [Engine.feed, hcons, processBytes_append]

/-- A step takes the next command off the stream and feeds its bytes to the instance, if there is one. -/
theorem step_takes_command {s t : State} {c : Command} {rest : List Command} (hp : s.pending = c :: rest)
    (h : step s = .next t) : t.pending = rest ∧ t.engine = s.engine.map (Engine.feed (bytesOf [c])) := by
  obtain ⟨hn, -⟩ | ⟨c', rest', i, hp', hd, hx⟩ := step_cases h
  · simp [hn] at hp
  · obtain ⟨rfl, rfl⟩ := List.cons.inj (hp'.symm.trans hp)
    obtain ⟨d, -, hi, rfl⟩ | ⟨b, e, rfl, he, rfl⟩ := exec_cases hx
    · simp [bytesOf_singleton_of_ne_process hd hi]
    · have he : s.engine = some e := he
      simp [bytesOf_singleton_of_process hd, he, Engine.feed]

/-- A refused command has no byte, or there is no instance to feed. -/
theorem map_feed_of_refused {s : State} {c : Command} {rest : List Command} {r : Refusal}
    (hp : s.pending = c :: rest) (h : step s = .refused r) :
    s.engine.map (Engine.feed (bytesOf [c])) = s.engine := by
  cases he : s.engine with
  | none => rfl
  | some e =>
    cases hd : decode c with
    | ok i =>
      cases ((step_of_decode_ok hp hd).trans (exec_eq_complete_instanceStep i he)).symm.trans h
    | error err => simp [bytesOf_singleton_of_decode_error hd]

/-- On a constructed instance a command with an assigned code completes. -/
theorem step_of_codeAssigned {s : State} {e : Engine} {c : Command} {rest : List Command} (he : s.engine = some e)
    (hp : s.pending = c :: rest) (hc : c.codeAssigned = true) : ∃ t, step s = .next t := by
  obtain ⟨i, hd⟩ := codeAssigned_iff_decode_ok.mp hc
  exact ⟨_, (step_of_decode_ok hp hd).trans (exec_eq_complete_instanceStep i he)⟩

/-- Settles O41, by induction on the commands: each step feeds the byte of its own command. -/
theorem registerDependsOnlyOnTheBytesIssued : Obligations.RegisterDependsOnlyOnTheBytesIssued := by
  intro cs rest s e hcs he hp
  induction cs generalizing s e with
  | nil => exact ⟨s, rfl, hp, he⟩
  | cons c cs ih =>
    obtain ⟨hc, hcs⟩ := List.forall_mem_cons.mp hcs
    obtain ⟨t, ht⟩ := step_of_codeAssigned he hp hc
    obtain ⟨htp, hte⟩ := step_takes_command hp ht
    rw [he] at hte
    obtain ⟨u, hu, hup, hue⟩ := ih t _ hcs hte htp
    exact ⟨u, (run_succ_of_next ht).trans hu, hup, hue.trans (congrArg some (e.feed_bytesOf_cons c cs))⟩

/-! ### Issue order -/

/-- What `State.finish` does for each command: the block takes it, or refuses it and the host passes over it. -/
def State.takeOrPass (s : State) : State :=
  match step s with
  | .next t => t
  | .fault _ => s.skip
  | .refused _ => s.skip

theorem State.finish_eq_foldl (s : State) : s.finish = s.pending.foldl (fun t _ => t.takeOrPass) s := rfl

theorem State.takeOrPass_of_next {s t : State} (h : step s = .next t) : s.takeOrPass = t := by
  simp only [State.takeOrPass, h]

theorem State.takeOrPass_of_refused {s : State} {r : Refusal} (h : step s = .refused r) : s.takeOrPass = s.skip := by
  simp only [State.takeOrPass, h]

/-- Taken or passed over, a command is off the stream and has fed its bytes to the instance, if there is one. -/
theorem State.takeOrPass_takes_command {s : State} {c : Command} {rest : List Command} (hp : s.pending = c :: rest) :
    s.takeOrPass.pending = rest ∧ s.takeOrPass.engine = s.engine.map (Engine.feed (bytesOf [c])) := by
  cases h : step s with
  | next t => rw [State.takeOrPass_of_next h]; exact step_takes_command hp h
  | fault f => cases f
  | refused r => rw [State.takeOrPass_of_refused h]; exact ⟨by simp [hp], (map_feed_of_refused hp h).symm⟩

/-- The commands issued, each taken or passed over, feed their bytes in issue order. -/
theorem foldl_takeOrPass (cs : List Command) {s : State} (hp : s.pending = cs) :
    (cs.foldl (fun t _ => t.takeOrPass) s).pending = [] ∧
      (cs.foldl (fun t _ => t.takeOrPass) s).engine = s.engine.map (Engine.feed (bytesOf cs)) := by
  induction cs generalizing s with
  | nil => exact ⟨hp, by simp [bytesOf]⟩
  | cons c cs ih =>
    obtain ⟨hp', he'⟩ := State.takeOrPass_takes_command hp
    obtain ⟨hpend, heng⟩ := ih hp'
    refine ⟨hpend, heng.trans ?_⟩
    simp [he', Function.comp_def, Engine.feed_bytesOf_cons]

/-- `GET` on a constructed instance drives the checksum and writes nothing (spec/41_crc_engine.md R109, R110). -/
theorem exec_get_of_engine {s : State} {e : Engine} (he : s.engine = some e) :
    exec .get s = .next { s with dout := some (placeResult (checksum e.cfg e.reg)) } := by
  rw [exec_eq_complete_instanceStep .get he]
  simp [State.complete, instanceStep, instanceGet, ← he]

/-- A `GET` issued behind commands with assigned codes answers the checksum of the bytes they feed. -/
theorem run_then_get {cs rest : List Command} {s : State} {e : Engine} (hcs : ∀ c ∈ cs, c.codeAssigned = true)
    (he : s.engine = some e) (hp : s.pending = cs ++ encode .get :: rest) :
    ∃ t : State, run (cs.length + 1) s = .next t ∧ t.pending = rest ∧
      t.dout = some (placeResult (checksum e.cfg (processBytes e.cfg e.reg (bytesOf cs)))) := by
  obtain ⟨t, hrun, htp, hte⟩ := registerDependsOnlyOnTheBytesIssued cs _ s e hcs he hp
  have hstep := (step_of_decode_ok htp (i := .get) rfl).trans (exec_get_of_engine hte)
  exact ⟨_, (run_add_of_next hrun).trans (run_succ_of_next hstep), rfl, rfl⟩

/-- Settles O54: every command issued feeds its bytes once, in order, and `CONSTRUCT` overwrites whatever they did. -/
theorem operationsTakeEffectInIssueOrder : Obligations.OperationsTakeEffectInIssueOrder := by
  intro s
  obtain ⟨hpend, heng⟩ := foldl_takeOrPass s.pending (s := s) rfl
  refine ⟨hpend, heng, fun cfg => ⟨rfl, fun _ t _ => t.construct_eq cfg s, fun cs rest hcs => ?_⟩⟩
  exact run_then_get (s := (s.construct cfg).issue (cs ++ encode .get :: rest)) hcs (s.construct_engine cfg) rfl

/-! ### GET is a snapshot -/

/-- On a constructed instance instructions other than `PROCESS` all complete and leave the instance as it is. -/
theorem foldlM_exec_keeps_engine {is : List Instr} {s : State} {e : Engine} (he : s.engine = some e)
    (his : ∀ i ∈ is, ∀ b, i ≠ .process b) :
    ∃ u : State, is.foldlM (fun s i => nextState (exec i s)) s = some u ∧ u.engine = some e := by
  induction is generalizing s with
  | nil => exact ⟨s, rfl, he⟩
  | cons i is ih =>
    obtain ⟨hi, his⟩ := List.forall_mem_cons.mp his
    have hx := exec_eq_complete_instanceStep i he
    obtain ⟨d, -, -, ht⟩ | ⟨b, -, rfl, -⟩ := exec_cases hx
    · obtain ⟨u, hu, hue⟩ := ih (s := { s with dout := some d }) he his
      exact ⟨u, by rw [List.foldlM_cons, hx, ht]; exact hu, hue⟩
    · exact absurd rfl (hi b)

/-- Settles O20: a `GET` leaves the instance as it is, and its answer and the effect of a `PROCESS` depend on the
instance alone. -/
theorem getIsASnapshotRead : Obligations.GetIsASnapshotRead := by
  intro s t h
  obtain ⟨e, he, -⟩ := withEngine_eq_next h
  obtain rfl := Host.Outcome.next.inj ((exec_get_of_engine he).symm.trans h)
  have ht : ({ s with dout := some (placeResult (checksum e.cfg e.reg)) } : State).engine = some e := he
  refine ⟨exec_get_of_engine ht, rfl, fun between hb => ?_, fun b => ?_⟩
  · obtain ⟨u, hu, hue⟩ := foldlM_exec_keeps_engine ht hb
    exact ⟨u, hu, hue.trans he.symm, exec_get_of_engine hue⟩
  · simp [exec_eq_complete_instanceStep _ he, exec_eq_complete_instanceStep _ ht, nextState]

/-! ### Several instances, and input reflection -/

/-- Settles O51: an action is seen at its own number only, so two actions at two numbers are seen alike in either
order. -/
theorem instancesShareNothing : Obligations.InstancesShareNothing := by
  refine ⟨fun sys a k j hjk => ?_, fun sys a b k j hjk => List.ext_getElem? fun n => ?_⟩
  · rw [System.actAt_getElem?, if_neg hjk.symm]
  · simp only [System.actAt_getElem?]
    by_cases hj : j = n
    · have hk : k ≠ n := hj ▸ hjk.symm
      simp [hj, hk]
    · simp [hj]

/-- Settles O17: both sides mix the reversed byte in, and the bit steps do not read `reflectIn`. -/
theorem reflectInProcessesTheReversedByte : Obligations.ReflectInProcessesTheReversedByte := by
  intro cfg r b
  have hin : inputByte { cfg with reflectIn := true } b = inputByte { cfg with reflectIn := false } (reflect b) := rfl
  exact congrArg (fun b' => bitSteps cfg.polynomial 8 (mix r b')) hin

end Sys2Proof.Machine
end

section
/-! The statements about the encoding (spec/30_encoding.md): decoder and encoder agree, the code alone selects the
operation, and the bits outside operand and result play no part. -/

namespace Sys2Proof.Machine

/-! ### The decoder, code by code (spec/30_encoding.md R61, R67) -/

section
variable (din : Word64)

@[simp] theorem decode_code_000 : decode ⟨0b000#3, din⟩ = .ok (.reflect8 (operand 8 din)) := by simp [decode]
@[simp] theorem decode_code_001 : decode ⟨0b001#3, din⟩ = .ok (.reflect16 (operand 16 din)) := by simp [decode]
@[simp] theorem decode_code_010 : decode ⟨0b010#3, din⟩ = .ok (.reflect32 (operand 32 din)) := by simp [decode]
@[simp] theorem decode_code_011 : decode ⟨0b011#3, din⟩ = .ok (.reflect64 (operand 64 din)) := by simp [decode]
@[simp] theorem decode_code_100 : decode ⟨0b100#3, din⟩ = .ok (.process (operand 8 din)) := by simp [decode]
@[simp] theorem decode_code_101 : decode ⟨0b101#3, din⟩ = .ok .get := by simp [decode]
@[simp] theorem decode_code_110 : decode ⟨0b110#3, din⟩ = .error (.reservedCode 0b110#3) := by simp [decode]
@[simp] theorem decode_code_111 : decode ⟨0b111#3, din⟩ = .error (.reservedCode 0b111#3) := by simp [decode]

end

/-- The eight values of `op`. -/
theorem opCode_cases (op : OpCode) :
    op = 0b000#3 ∨ op = 0b001#3 ∨ op = 0b010#3 ∨ op = 0b011#3 ∨ op = 0b100#3 ∨ op = 0b101#3 ∨ op = 0b110#3 ∨
      op = 0b111#3 := by
  revert op; decide

/-- The decoder rejects exactly the two reserved codes, by name (spec/30_encoding.md R67). -/
theorem decode_eq_error_iff {c : Command} {err : DecodeError} :
    decode c = .error err ↔ err = .reservedCode c.op ∧ (c.op = 0b110#3 ∨ c.op = 0b111#3) := by
  obtain ⟨op, din⟩ := c
  obtain rfl | rfl | rfl | rfl | rfl | rfl | rfl | rfl := opCode_cases op <;> simp [eq_comm]

/-! ### Decoder and encoder -/

/-- The encoder writes what the decoder reads back (spec/30_encoding.md R61, R64). -/
theorem decode_encode (i : Instr) : decode (encode i) = .ok i := by
  cases i <;> simp [encode, operand_placeOperand]

/-- Each instruction is encoded under the code that the table gives to its mnemonic (spec/30_encoding.md R61). -/
theorem lookup_encode_op (i : Instr) :
    [(0b000#3, "REFLECT8"), (0b001#3, "REFLECT16"), (0b010#3, "REFLECT32"), (0b011#3, "REFLECT64"),
      (0b100#3, "PROCESS"), (0b101#3, "GET")].lookup (encode i).op = some (mnemonic i) := by
  cases i <;> rfl

theorem placeOperand_operand_zero (din : Word64) : placeOperand (operand 0 din) = 0#64 := by
  rw [BitVec.eq_nil (operand 0 din)]
  rfl

/-- What a command decodes to is encoded as the command's code and its operand, with the ignored bits of `din`
cleared (spec/30_encoding.md R64). -/
theorem encode_of_decode_ok {c : Command} {i : Instr} (h : decode c = .ok i) :
    ∃ n, operandWidth c.op = some n ∧ encode i = ⟨c.op, placeOperand (operand n c.din)⟩ := by
  obtain ⟨op, din⟩ := c
  obtain rfl | rfl | rfl | rfl | rfl | rfl | rfl | rfl := opCode_cases op <;> simp at h <;> subst h
  all_goals simp [operandWidth, encode, placeOperand_operand_zero]

/-- A bus with zeros above the operand is its operand, placed. -/
theorem placeOperand_operand {n : Nat} {din : Word64} (h : din >>> n = 0#64) :
    placeOperand (operand n din) = din := by
  ext k hk
  by_cases hn : k < n
  · simp [placeOperand, operand, hn, hk]
  · have hbit : (din >>> n).getLsbD (k - n) = false := by simp [h]
    rw [BitVec.getLsbD_ushiftRight, Nat.add_sub_cancel' (Nat.le_of_not_lt hn)] at hbit
    simp [placeOperand, operand, hn, ← BitVec.getLsbD_eq_getElem, hbit]

/-- A canonical command has zeros above its operand. -/
theorem din_shiftRight_of_wf {c : Command} {n : Nat} (hwf : c.wf = true) (hn : operandWidth c.op = some n) :
    c.din >>> n = 0#64 := by
  simpa [Command.wf, Command.codeAssigned, Command.unusedZero, hn] using hwf

/-- Clearing the ignored bits of `din` leaves the instruction the same (spec/30_encoding.md R64). -/
theorem decode_placeOperand_operand {op : OpCode} {n : Nat} (hn : operandWidth op = some n) (din : Word64) :
    decode ⟨op, placeOperand (operand n din)⟩ = decode ⟨op, din⟩ := by
  obtain ⟨i, hi⟩ := codeAssigned_iff_decode_ok (c := ⟨op, din⟩).mp (by simp [Command.codeAssigned, hn])
  obtain ⟨m, hm, henc⟩ := encode_of_decode_ok hi
  cases hn.symm.trans hm
  rw [← henc, decode_encode, hi]

/-- Two commands with one code whose operands agree decode alike (spec/30_encoding.md R64). -/
theorem decode_eq_of_operand_eq {op : OpCode} {n : Nat} {d₁ d₂ : Word64} (hn : operandWidth op = some n)
    (hd : operand n d₁ = operand n d₂) : decode ⟨op, d₁⟩ = decode ⟨op, d₂⟩ := by
  rw [← decode_placeOperand_operand hn d₁, hd, decode_placeOperand_operand hn d₂]

/-! ### The packed word (log 8) -/

@[simp] theorem ofWord_toWord (c : Command) : Command.ofWord c.toWord = c :=
  congrArg₂ Command.mk BitVec.extractLsb'_append_eq_right BitVec.extractLsb'_append_eq_left

/-- A table word of all 67 bits is the packed word itself. -/
theorem ofTableWord_toNat (w : BitVec 67) : Command.ofTableWord 67 w.toNat = Command.ofWord w := by
  rw [Command.ofTableWord, Nat.mod_eq_of_lt w.isLt, BitVec.ofNat_toNat, BitVec.setWidth_eq]

theorem decodeTableWord_toWord {c : Command} {i : Instr} (h : decode c = .ok i) :
    decodeTableWord 67 c.toWord.toNat = some i := by
  simp [decodeTableWord, ofTableWord_toNat, h]

/-! ### The idle step -/

/-- With nothing issued the block only stops driving a result (log 5). -/
theorem step_of_pending_nil {s : State} (hp : s.pending = []) : step s = .next { s with dout := none } := by
  rw [step, State.takeCommand_eq_none.mpr hp]
  rfl

/-! ### The statements -/

/-- Settles O29: the operand is read back from the bus, and the two parts of the packed word from the word. -/
theorem decodingAnEncodedInstructionGivesItBack : Obligations.DecodingAnEncodedInstructionGivesItBack :=
  fun i _ => ⟨decode_encode i, ofWord_toWord (encode i), decodeTableWord_toWord (decode_encode i)⟩

/-- Settles O28: commands that differ in ignored bits decode alike, and a result is placed with zeros above it. -/
theorem bitsOutsideOperandAndResultDoNotMatter : Obligations.BitsOutsideOperandAndResultDoNotMatter := by
  refine ⟨fun s op n d₁ d₂ rest hn hd => ?_, fun i s t d hx hdout => ?_⟩
  · have hdec : decode ⟨op, d₁⟩ = decode ⟨op, d₂⟩ := decode_eq_of_operand_eq hn hd
    cases h : decode ⟨op, d₂⟩ with
    | ok i => rw [step_of_decode_ok rfl (hdec.trans h), step_of_decode_ok rfl h]
    | error err => rw [step_of_decode_error rfl (hdec.trans h), step_of_decode_error rfl h]
  · obtain ⟨d', hzero, -, rfl⟩ | ⟨b, e, -, -, rfl⟩ := exec_cases hx
    · cases hdout
      exact hzero
    · cases hdout

/-- Settles O30: the encoding is the command with its ignored bits cleared, and a canonical command has them clear. -/
theorem encodingADecodedCommandGivesItBack : Obligations.EncodingADecodedCommandGivesItBack := by
  intro c i h
  obtain ⟨n, hn, henc⟩ := encode_of_decode_ok h
  refine ⟨by rw [henc], fun hwf => ?_, (decode_encode i).trans h.symm⟩
  rw [henc, placeOperand_operand (din_shiftRight_of_wf hwf hn)]

/-- Settles O26: the decoder rejects the two codes, and the step refuses what the decoder rejects. -/
theorem reservedCodesAreRefused : Obligations.ReservedCodesAreRefused := by
  intro op din s rest hop hp
  have hd : decode ⟨op, din⟩ = .error (.reservedCode op) := decode_eq_error_iff.mpr ⟨rfl, hop⟩
  exact ⟨hd, step_of_decode_error hp hd⟩

/-- Settles O27: a decoded command has the code under which its instruction is encoded, and only the reserved codes
decode to nothing. -/
theorem codeAloneSelectsTheOperation : Obligations.CodeAloneSelectsTheOperation := by
  intro c
  cases h : decode c with
  | ok i =>
    obtain ⟨n, -, henc⟩ := encode_of_decode_ok h
    exact congrArg Command.op henc ▸ lookup_encode_op i
  | error err => exact decode_eq_error_iff.mp h

/-- Settles O31: each word has the code of its operation, and its operand is read at its own width. -/
theorem wordsWrittenFromTheTableDecode : Obligations.WordsWrittenFromTheTableDecode :=
  ⟨decode_code_000 _, decode_code_001 _, decode_code_010 _, decode_code_011 _, decode_code_100 _, decode_code_101 _,
    decode_code_110 _, decode_code_111 _⟩

/-- Settles O32: the step follows the decoder, and with nothing issued it is idle. -/
theorem stepRunsTheDecodedInstruction : Obligations.StepRunsTheDecodedInstruction :=
  ⟨fun _ _ _ _ hp hd _ => step_of_decode_ok hp hd, fun _ => step_of_pending_nil⟩

end Sys2Proof.Machine
end

section
/-! The statements about the Bit Reflector (spec/40_reflector.md): the contract and its consequences, the four
commands, and the staged algorithm in any order of its stages. -/

namespace Sys2Proof.Machine

/-! ### The contract (R80), at every width -/

theorem reflect_getLsbD {w : Nat} (v : BitVec w) {i : Nat} (h : i < w) :
    (reflect v).getLsbD i = v.getLsbD (w - 1 - i) :=
  reflectBits_getLsbD v w i h

@[simp] theorem reflect_getElem {w : Nat} (v : BitVec w) {i : Nat} (h : i < w) : (reflect v)[i] = v[w - 1 - i] :=
  reflect_getLsbD v h

/-- The reflection of the contract is the library's reversal. -/
theorem reflect_eq_reverse {w : Nat} (v : BitVec w) : reflect v = v.reverse := by
  refine BitVec.eq_of_getLsbD_eq fun i h => ?_
  rw [reflect_getLsbD v h, BitVec.getLsbD_reverse, BitVec.getMsbD_eq_getLsbD, decide_eq_true h, Bool.true_and]

theorem reflect_reflect {w : Nat} (v : BitVec w) : reflect (reflect v) = v := by
  rw [reflect_eq_reverse, reflect_eq_reverse, BitVec.reverse_reverse_eq]

/-! ### What reflection preserves (R89) -/

theorem reflect_xor {w : Nat} (a b : BitVec w) : reflect (a ^^^ b) = reflect a ^^^ reflect b := by
  ext i h
  simp

theorem reflect_and {w : Nat} (a b : BitVec w) : reflect (a &&& b) = reflect a &&& reflect b := by
  ext i h
  simp

theorem reflect_or {w : Nat} (a b : BitVec w) : reflect (a ||| b) = reflect a ||| reflect b := by
  ext i h
  simp

@[simp] theorem reflect_zero (w : Nat) : reflect (0#w) = 0#w := by
  ext i h
  simp

@[simp] theorem reflect_allOnes (w : Nat) : reflect (BitVec.allOnes w) = BitVec.allOnes w := by
  ext i h
  simp

/-- The indices below `w`, each taken to `w - 1 - i`, are the same indices from the last to the first. -/
theorem map_flip_range (w : Nat) : (List.range w).map (w - 1 - ·) = (List.range w).reverse := by
  rw [List.range_eq_range', List.reverse_range', List.range_eq_range', Nat.zero_add]

/-- Reflection keeps the number of set bits: it counts the same bits from the other end. -/
theorem countP_reflect {w : Nat} (v : BitVec w) :
    (List.range w).countP (fun i => (reflect v).getLsbD i) = (List.range w).countP (fun i => v.getLsbD i) := by
  calc (List.range w).countP (fun i => (reflect v).getLsbD i)
      = (List.range w).countP (v.getLsbD ∘ (w - 1 - ·)) :=
        List.countP_congr fun i hi => by simp [reflect_getLsbD v (List.mem_range.mp hi)]
    _ = ((List.range w).map (w - 1 - ·)).countP v.getLsbD := List.countP_map.symm
    _ = (List.range w).countP v.getLsbD := by rw [map_flip_range, List.countP_reverse]

/-- A single bit goes to the mirrored place. -/
theorem reflect_one_shiftLeft {w k : Nat} (hk : k < w) : reflect (1#w <<< k) = 1#w <<< (w - 1 - k) := by
  ext i h
  simp only [reflect_getElem, ← BitVec.twoPow_eq, BitVec.getElem_twoPow, decide_eq_decide]
  omega

/-- The reflection of a widened value is its own reflection, moved to the high bits. -/
theorem reflect_setWidth {w w' : Nat} (hw : w ≤ w') (v : BitVec w) :
    reflect (v.setWidth w') = (reflect v).setWidth w' <<< (w' - w) := by
  ext i h
  rw [reflect_getElem, BitVec.getElem_setWidth, BitVec.getElem_shiftLeft]
  by_cases hi : i < w' - w
  · simp [hi, BitVec.getLsbD_of_ge v (w' - 1 - i) (by omega)]
  · have hflip : w - 1 - (i - (w' - w)) = w' - 1 - i := by omega
    rw [BitVec.getElem_setWidth, reflect_getLsbD v (by omega), hflip]
    simp [hi]

/-! ### The staged algorithm (R86): a stage flips one bit of the index -/

theorem mem_stageSizes {k s : Nat} : s ∈ stageSizes k ↔ ∃ j < k, s = 2 ^ j := by
  induction k with
  | zero => simp [stageSizes]
  | succ k ih => rw [stageSizes, List.mem_cons, ih, Nat.exists_lt_succ_right, or_comm]

theorem length_stageSizes (k : Nat) : (stageSizes k).length = k := by
  induction k with
  | zero => rfl
  | succ k ih => rw [stageSizes, List.length_cons, ih]

theorem stageMask_getLsbD {w i : Nat} (s : Nat) (h : i < w) :
    (stageMask w s).getLsbD i = decide (i / s % 2 = 0) :=
  maskBits_getLsbD s w i h

theorem xor_one_eq_ite (q : Nat) : q ^^^ 1 = if q % 2 = 0 then q + 1 else q - 1 := by
  have hdiv : (q ^^^ 1) / 2 = q / 2 := by simp [Nat.xor_div_two]
  have hmod : (q ^^^ 1) % 2 = (q + 1) % 2 := Nat.xor_mod_two_eq
  split <;> omega

/-- Flipping bit `j` of an index adds its weight where the bit is clear, and takes it away where it is set. -/
theorem xor_two_pow_eq_ite (i j : Nat) :
    i ^^^ 2 ^ j = if i / 2 ^ j % 2 = 0 then i + 2 ^ j else i - 2 ^ j := by
  have hi : 2 ^ j * (i / 2 ^ j) + i % 2 ^ j = i := Nat.div_add_mod i (2 ^ j)
  have hx : i ^^^ 2 ^ j = 2 ^ j * (i / 2 ^ j ^^^ 1) + i % 2 ^ j := by
    rw [← Nat.div_add_mod (i ^^^ 2 ^ j) (2 ^ j), Nat.xor_div_two_pow, Nat.xor_mod_two_pow,
      Nat.div_self (Nat.two_pow_pos j), Nat.mod_self, Nat.xor_zero]
  rw [hx, xor_one_eq_ite]
  generalize i / 2 ^ j = q at hi
  split
  · rw [Nat.mul_add_one]
    omega
  · obtain ⟨p, rfl⟩ : ∃ p, q = p + 1 := Nat.exists_eq_succ_of_ne_zero (by omega)
    rw [Nat.mul_add_one] at hi
    rw [Nat.add_sub_cancel]
    omega

/-- Of two neighbouring blocks of `s` indices one has an even number. -/
theorem sub_div_mod_two_eq_zero {i s : Nat} (hs : 0 < s) (h : s ≤ i) : (i - s) / s % 2 = 0 ↔ ¬ i / s % 2 = 0 := by
  have hdiv : i / s = (i - s) / s + 1 := Nat.div_eq_sub_div hs h
  omega

/-- In the stage of size `2 ^ j` each bit comes from the index with bit `j` flipped: from `2 ^ j` above in an even
block, and from `2 ^ j` below in an odd one. -/
theorem reflectStage_getLsbD {w i j : Nat} (v : BitVec w) (h : i < w) :
    (reflectStage v (2 ^ j)).getLsbD i = v.getLsbD (i ^^^ 2 ^ j) := by
  rw [reflectStage, BitVec.getLsbD_or, BitVec.getLsbD_and, BitVec.getLsbD_ushiftRight, BitVec.getLsbD_shiftLeft,
    BitVec.getLsbD_and, stageMask_getLsbD _ h, stageMask_getLsbD _ ((Nat.sub_le _ _).trans_lt h), xor_two_pow_eq_ite]
  by_cases hle : 2 ^ j ≤ i
  · have hblock := sub_div_mod_two_eq_zero (Nat.two_pow_pos j) hle
    by_cases heven : i / 2 ^ j % 2 = 0
    · simp [hblock, heven, Nat.add_comm]
    · simp [hblock, heven, h, hle]
  · have hfirst : i / 2 ^ j = 0 := Nat.div_eq_of_lt (Nat.lt_of_not_le hle)
    simp [hfirst, Nat.lt_of_not_le hle, Nat.add_comm]

/-- The bits of the index that stages of these sizes flip together. -/
def flippedBits (sizes : List Nat) : Nat := sizes.foldr (· ^^^ ·) 0

@[simp] theorem flippedBits_nil : flippedBits [] = 0 := rfl

theorem flippedBits_cons (s : Nat) (sizes : List Nat) : flippedBits (s :: sizes) = s ^^^ flippedBits sizes := rfl

theorem flippedBits_lt {k : Nat} {sizes : List Nat} (hs : ∀ s ∈ sizes, s ∈ stageSizes k) :
    flippedBits sizes < 2 ^ k := by
  induction sizes with
  | nil => exact Nat.two_pow_pos k
  | cons s sizes ih =>
    obtain ⟨hs, hsizes⟩ := List.forall_mem_cons.mp hs
    obtain ⟨j, hj, rfl⟩ := mem_stageSizes.mp hs
    exact Nat.xor_lt_two_pow (Nat.pow_lt_pow_right Nat.one_lt_two hj) (ih hsizes)

/-- The stages `W/2, …, 1` together flip every bit of the index. -/
theorem flippedBits_stageSizes (k : Nat) : flippedBits (stageSizes k) = 2 ^ k - 1 := by
  induction k with
  | zero => rfl
  | succ k ih =>
    have hpos : 0 < 2 ^ k := Nat.two_pow_pos k
    have hclear : (2 ^ k - 1) / 2 ^ k % 2 = 0 := by rw [Nat.div_eq_of_lt (Nat.sub_one_lt_of_lt hpos)]
    rw [stageSizes, flippedBits_cons, ih, Nat.xor_comm, xor_two_pow_eq_ite, if_pos hclear]
    omega

/-- Stages one after another flip their bits of the index one after another. -/
theorem foldl_reflectStage_getLsbD {k i : Nat} {sizes : List Nat} (hs : ∀ s ∈ sizes, s ∈ stageSizes k)
    (v : BitVec (2 ^ k)) (h : i < 2 ^ k) :
    (sizes.foldl reflectStage v).getLsbD i = v.getLsbD (i ^^^ flippedBits sizes) := by
  induction sizes generalizing v with
  | nil => simp
  | cons s sizes ih =>
    obtain ⟨hs, hsizes⟩ := List.forall_mem_cons.mp hs
    obtain ⟨j, -, rfl⟩ := mem_stageSizes.mp hs
    have hlt : i ^^^ flippedBits sizes < 2 ^ k := Nat.xor_lt_two_pow h (flippedBits_lt hsizes)
    rw [List.foldl_cons, ih hsizes, reflectStage_getLsbD _ hlt, flippedBits_cons, Nat.xor_assoc,
      Nat.xor_comm (flippedBits sizes)]

/-- Flipping every bit of an index mirrors it. -/
theorem xor_two_pow_sub_one {k i : Nat} (h : i < 2 ^ k) : i ^^^ (2 ^ k - 1) = 2 ^ k - 1 - i := by
  refine Nat.eq_of_testBit_eq fun n => ?_
  rw [Nat.sub_sub, Nat.add_comm 1 i, Nat.testBit_two_pow_sub_succ h, Nat.testBit_xor, Nat.testBit_two_pow_sub_one]
  by_cases hn : n < k
  · simp [hn]
  · have hlt : i < 2 ^ n := h.trans_le (Nat.pow_le_pow_right Nat.two_pos (Nat.le_of_not_lt hn))
    simp [hn, Nat.testBit_lt_two_pow hlt]

/-- The stages, in any order, compute the reflection. -/
theorem foldl_reflectStage_of_perm {k : Nat} {order : List Nat} (hp : order.Perm (stageSizes k))
    (v : BitVec (2 ^ k)) : order.foldl reflectStage v = reflect v := by
  refine BitVec.eq_of_getLsbD_eq fun i hi => ?_
  have hflip : flippedBits order = 2 ^ k - 1 := hp.foldr_op_eq.trans (flippedBits_stageSizes k)
  rw [foldl_reflectStage_getLsbD (fun _ => hp.mem_iff.mp) v hi, hflip, xor_two_pow_sub_one hi, reflect_getLsbD v hi]

/-! ### The four commands (R81 to R85) -/

/-- The reflection of an operand on the result bus: its bits in reverse order in the low bits, and zeros above. -/
theorem placeResult_reflect_bits {w : Nat} (hw : w ≤ 64) (v : BitVec w) :
    (∀ i, i < w → (placeResult (reflect v)).getLsbD i = v.getLsbD (w - 1 - i)) ∧
      ∀ i, w ≤ i → i < 64 → (placeResult (reflect v)).getLsbD i = false := by
  refine ⟨fun i hi => ?_, fun i hi _ => ?_⟩
  · rw [placeResult_getLsbD, reflect_getLsbD v hi, decide_eq_true (hi.trans_le hw), Bool.true_and]
  · rw [placeResult_getLsbD, BitVec.getLsbD_of_ge _ i hi, Bool.and_false]

/-- A reflector command completes in every state with a result that only its operand decides, and drives that
result and nothing else (R81). -/
theorem exec_reflector {i : Instr}
    (hi : (∃ v, i = .reflect8 v) ∨ (∃ v, i = .reflect16 v) ∨ (∃ v, i = .reflect32 v) ∨ (∃ v, i = .reflect64 v)) :
    ∃ d : Word64, ∀ s : State, exec i s = .next { s with dout := some d } := by
  obtain ⟨v, rfl⟩ | ⟨v, rfl⟩ | ⟨v, rfl⟩ | ⟨v, rfl⟩ := hi
  all_goals exact ⟨placeResult (reflect v), fun _ => rfl⟩

/-- What `GET` answers depends on the engine alone. -/
theorem get_dout_of_engine_eq {s t : State} (h : t.engine = s.engine) :
    (nextState (exec .get t)).map (·.dout) = (nextState (exec .get s)).map (·.dout) := by
  cases hs : s.engine with
  | none =>
    rw [(unconstructedEngineCommandsAreRefused t (h.trans hs)).2, (unconstructedEngineCommandsAreRefused s hs).2]
  | some e => simp [exec_get_of_engine hs, exec_get_of_engine (h.trans hs), nextState]

/-! ### The statements -/

/-- Settles O1: the equation holds at every width. -/
theorem reflectReversesTheBitOrder : Obligations.ReflectReversesTheBitOrder :=
  fun _ _ v _ hi => reflect_getLsbD v hi

/-- Settles O2: the result is the reflection, placed on the bus. -/
theorem reflect8ReversesEightBits : Obligations.Reflect8ReversesEightBits :=
  ⟨decode_code_000, fun v _ => ⟨placeResult (reflect v), rfl, placeResult_reflect_bits (by decide) v⟩⟩

/-- Settles O3: the result is the reflection, placed on the bus. -/
theorem reflect16ReversesSixteenBits : Obligations.Reflect16ReversesSixteenBits :=
  ⟨decode_code_001, fun v _ => ⟨placeResult (reflect v), rfl, placeResult_reflect_bits (by decide) v⟩⟩

/-- Settles O4: the result is the reflection, placed on the bus. -/
theorem reflect32ReversesThirtyTwoBits : Obligations.Reflect32ReversesThirtyTwoBits :=
  ⟨decode_code_010, fun v _ => ⟨placeResult (reflect v), rfl, placeResult_reflect_bits (by decide) v⟩⟩

/-- Settles O5: the operand is all of the bus, and the result fills it. -/
theorem reflect64ReversesSixtyFourBits : Obligations.Reflect64ReversesSixtyFourBits := by
  refine ⟨fun din => ?_, fun v _ => ⟨placeResult (reflect v), rfl, (placeResult_reflect_bits le_rfl v).1⟩⟩
  rw [decode_code_011, operand, BitVec.setWidth_eq]

/-- Settles O6: the reversal of the reversal is the value, at every width. -/
theorem reflectTwiceIsIdentity : Obligations.ReflectTwiceIsIdentity :=
  fun _ _ v => reflect_reflect v

/-- Settles O7: each property holds at every width, and the last between any two widths. -/
theorem reflectRespectsBitwiseStructure : Obligations.ReflectRespectsBitwiseStructure :=
  ⟨fun w _ => ⟨fun a b => ⟨reflect_xor a b, reflect_and a b, reflect_or a b⟩, countP_reflect, reflect_zero w,
    reflect_allOnes w, fun _ hk => reflect_one_shiftLeft hk⟩, reflect_setWidth (by decide)⟩

/-- Settles O8: every stage flips its own bit of the index, so all of them, in any order, flip them all. -/
theorem stagedAlgorithmComputesReflection : Obligations.StagedAlgorithmComputesReflection :=
  fun k _ => ⟨length_stageSizes k, fun s _ hi => stageMask_getLsbD s hi, fun v =>
    ⟨foldl_reflectStage_of_perm (List.Perm.refl _) v, fun _ hp => foldl_reflectStage_of_perm hp v⟩⟩

/-- Settles O9: the result is decided by the operand, and `GET` reads the engine, which stays. -/
theorem reflectorAndEngineDoNotInteract : Obligations.ReflectorAndEngineDoNotInteract := by
  intro i hi s₁ s₂
  obtain ⟨d, hd⟩ := exec_reflector hi
  exact ⟨_, _, hd s₁, hd s₂, rfl, rfl, rfl, get_dout_of_engine_eq rfl⟩

/-- Settles O33: an instruction that goes on and is no `PROCESS` writes `dout` alone. -/
theorem readOnlyCommandsChangeOnlyTheResult : Obligations.ReadOnlyCommandsChangeOnlyTheResult := by
  intro i s t hne h
  obtain ⟨d, -, -, rfl⟩ | ⟨b, -, hb, -, -⟩ := exec_cases h
  · exact ⟨rfl, rfl, rfl⟩
  · exact absurd hb (hne b)

end Sys2Proof.Machine
end

section
/-! The statements about the CRC-16 Engine (spec/41_crc_engine.md): the bit step and `PROCESS` bit by bit and as maps
linear over XOR, `GET`, the runs of whole messages, and the register as the remainder of a polynomial division. -/

namespace Sys2Proof.Machine

/-! ### The bit step (R105) -/

theorem bitStep_of_top_set {r : Word16} (h : r.getLsbD 15 = true) (p : Word16) : bitStep p r = (r <<< 1) ^^^ p :=
  if_pos h

theorem bitStep_of_top_clear {r : Word16} (h : r.getLsbD 15 = false) (p : Word16) : bitStep p r = r <<< 1 :=
  if_neg (ne_true_of_eq_false h)

/-- The single expression of R105. -/
theorem bitStep_eq_xor (p r : Word16) : bitStep p r = (r <<< 1) ^^^ (if r.getLsbD 15 then p else 0#16) := by
  cases h : r.getLsbD 15
  · rw [bitStep_of_top_clear h, if_neg Bool.false_ne_true, BitVec.xor_zero]
  · rw [bitStep_of_top_set h, if_pos rfl]

theorem bitStep_getLsbD_zero (p r : Word16) : (bitStep p r).getLsbD 0 = (r.getLsbD 15 && p.getLsbD 0) := by
  rw [bitStep_eq_xor]
  cases r.getLsbD 15 <;> simp

theorem bitStep_getLsbD_succ (p r : Word16) {i : Nat} (hi : i < 15) :
    (bitStep p r).getLsbD (i + 1) = xor (r.getLsbD i) (r.getLsbD 15 && p.getLsbD (i + 1)) := by
  have hi' : i + 1 < 16 := by omega
  rw [bitStep_eq_xor, BitVec.getLsbD_xor, BitVec.getLsbD_shiftLeft]
  cases r.getLsbD 15 <;> simp [hi']

@[simp] theorem bitStep_zero (p : Word16) : bitStep p 0#16 = 0#16 := by
  simp [bitStep_eq_xor]

@[simp] theorem bitStep_polynomial_zero (r : Word16) : bitStep 0#16 r = r <<< 1 := by
  simp [bitStep_eq_xor]

theorem bitStep_xor (p a c : Word16) : bitStep p (a ^^^ c) = bitStep p a ^^^ bitStep p c := by
  have hsel : (if (a ^^^ c).getLsbD 15 then p else 0#16) =
      (if a.getLsbD 15 then p else 0#16) ^^^ (if c.getLsbD 15 then p else 0#16) := by
    rw [BitVec.getLsbD_xor]
    cases a.getLsbD 15 <;> cases c.getLsbD 15 <;> simp
  simp only [bitStep_eq_xor, BitVec.shiftLeft_xor_distrib, hsel]
  ac_rfl

/-! ### Several bit steps -/

@[simp] theorem bitSteps_of_zero (p : Word16) (n : Nat) : bitSteps p n 0#16 = 0#16 := by
  induction n with
  | zero => rfl
  | succ n ih => rw [bitSteps_succ, bitStep_zero, ih]

theorem bitSteps_xor (p : Word16) (n : Nat) (a c : Word16) :
    bitSteps p n (a ^^^ c) = bitSteps p n a ^^^ bitSteps p n c := by
  induction n generalizing a c with
  | zero => rfl
  | succ n ih => rw [bitSteps_succ, bitStep_xor, ih, bitSteps_succ, bitSteps_succ]

theorem bitSteps_polynomial_zero (n : Nat) (r : Word16) : bitSteps 0#16 n r = r <<< n := by
  induction n with
  | zero => simp
  | succ n ih => rw [bitSteps_succ', ih, bitStep_polynomial_zero, ← BitVec.shiftLeft_add]

/-- While no set bit reaches the top, the bit steps only shift. -/
theorem bitSteps_of_high_clear (p : Word16) {n : Nat} {r : Word16} (h : ∀ i, 16 - n ≤ i → r.getLsbD i = false) :
    bitSteps p n r = r <<< n := by
  induction n with
  | zero => simp
  | succ n ih =>
    have htop : (r <<< n).getLsbD 15 = false := by
      rw [BitVec.getLsbD_shiftLeft, h (15 - n) (by omega), Bool.and_false]
    rw [bitSteps_succ', ih fun i hi => h i (by omega), bitStep_of_top_clear htop, ← BitVec.shiftLeft_add]

/-! ### A register by its two bytes -/

/-- The 16-bit value with these bytes in bits 15 to 8 and 7 to 0. -/
def ofBytes (high low : Byte) : Word16 := high ++ low

theorem ofBytes_extractLsb' (r : Word16) : ofBytes (r.extractLsb' 8 8) (r.extractLsb' 0 8) = r :=
  BitVec.extractLsb'_append_extractLsb' (w := 8) (len := 8) (x := r)

@[simp] theorem ofBytes_highByte (high low : Byte) : (ofBytes high low).extractLsb' 8 8 = high :=
  BitVec.extractLsb'_append_eq_left (a := high) (b := low)

@[simp] theorem ofBytes_lowByte (high low : Byte) : (ofBytes high low).extractLsb' 0 8 = low :=
  BitVec.extractLsb'_append_eq_right (a := high) (b := low)

theorem ofBytes_xor (h₁ l₁ h₂ l₂ : Byte) : ofBytes h₁ l₁ ^^^ ofBytes h₂ l₂ = ofBytes (h₁ ^^^ h₂) (l₁ ^^^ l₂) :=
  BitVec.xor_append (x₁ := h₁) (x₂ := h₂) (y₁ := l₁) (y₂ := l₂)

theorem ofBytes_zero_high_getLsbD (low : Byte) {i : Nat} (hi : 8 ≤ i) : (ofBytes 0#8 low).getLsbD i = false := by
  refine (BitVec.getLsbD_append (x := 0#8) (y := low)).trans ?_
  simp [Nat.not_lt.mpr hi]

theorem shiftLeft_eight (r : Word16) : r <<< 8 = ofBytes (r.extractLsb' 0 8) 0#8 :=
  BitVec.shiftLeft_eq_concat_of_lt (by decide)

/-! ### The input byte and the mix (R102, R103) -/

theorem inputByte_getLsbD (cfg : Cfg) (b : Byte) {i : Nat} (hi : i < 8) :
    (inputByte cfg b).getLsbD i = if cfg.reflectIn then b.getLsbD (7 - i) else b.getLsbD i := by
  unfold inputByte
  split
  · exact reflect_getLsbD b hi
  · rfl

@[simp] theorem inputByte_zero (cfg : Cfg) : inputByte cfg 0#8 = 0#8 := by
  simp [inputByte]

@[simp] theorem mix_zero_byte (r : Word16) : mix r 0#8 = r := by
  simp [mix]

/-- The mix is the register XOR what the byte makes of register zero. -/
theorem mix_eq_xor (r : Word16) (b : Byte) : mix r b = r ^^^ mix 0#16 b := by
  simp [mix]

theorem mix_zero_register (b : Byte) : mix 0#16 b = ofBytes b 0#8 := by
  have hlow : (b.setWidth 16).extractLsb' 0 8 = b := by
    rw [BitVec.extractLsb'_setWidth_of_le (by decide), BitVec.extractLsb'_eq_self]
  rw [mix, BitVec.zero_xor, shiftLeft_eight, hlow]

/-- The byte is XORed into the high byte, and the low byte stays. -/
theorem mix_eq_ofBytes (r : Word16) (b : Byte) : mix r b = ofBytes (r.extractLsb' 8 8 ^^^ b) (r.extractLsb' 0 8) := by
  calc mix r b
      = ofBytes (r.extractLsb' 8 8) (r.extractLsb' 0 8) ^^^ ofBytes b 0#8 := by
        rw [mix_eq_xor, mix_zero_register, ofBytes_extractLsb']
    _ = ofBytes (r.extractLsb' 8 8 ^^^ b) (r.extractLsb' 0 8) := by rw [ofBytes_xor, BitVec.xor_zero]

/-- The mixed value is its high byte alone XOR its low byte alone. -/
theorem mix_eq_high_xor_low (r : Word16) (b : Byte) :
    mix r b = mix 0#16 (r.extractLsb' 8 8 ^^^ b) ^^^ ofBytes 0#8 (r.extractLsb' 0 8) := by
  rw [mix_eq_ofBytes, mix_zero_register, ofBytes_xor, BitVec.xor_zero, BitVec.zero_xor]

/-! ### PROCESS, as a map linear over XOR (R107) -/

theorem processByte_eq_xor (cfg : Cfg) (r : Word16) (b : Byte) :
    processByte cfg r b = processByte cfg r 0#8 ^^^ processByte cfg 0#16 b := by
  rw [processByte, mix_eq_xor, bitSteps_xor, processByte, inputByte_zero, mix_zero_byte, processByte]

/-- What a byte makes of the register: what the eight bit steps make of the mixed high byte, XOR the low byte shifted
up. -/
theorem processByte_eq_highByte_xor_shift (cfg : Cfg) (r : Word16) (b : Byte) :
    processByte cfg r b =
      bitSteps cfg.polynomial 8 (mix 0#16 (r.extractLsb' 8 8 ^^^ inputByte cfg b)) ^^^ (r <<< 8) := by
  have hlow : bitSteps cfg.polynomial 8 (ofBytes 0#8 (r.extractLsb' 0 8)) = r <<< 8 := by
    rw [bitSteps_of_high_clear _ fun i hi => ofBytes_zero_high_getLsbD _ hi, shiftLeft_eight, ofBytes_lowByte,
      shiftLeft_eight]
  rw [processByte, mix_eq_high_xor_low, bitSteps_xor, hlow]

/-- The table of R107 (d): what the eight bit steps make of each byte over a low byte zero. -/
def processTable (p : Word16) : List Word16 :=
  (List.range 256).map fun i => bitSteps p 8 (mix 0#16 (BitVec.ofNat 8 i))

theorem length_processTable (p : Word16) : (processTable p).length = 256 := by
  simp [processTable]

theorem processTable_getElem? (p : Word16) (b : Byte) :
    (processTable p)[b.toNat]? = some (bitSteps p 8 (mix 0#16 b)) := by
  simp [processTable, b.isLt]

/-! ### The polynomial of a bit string, first bit the highest power -/

open Polynomial

/-- A bit string as a polynomial over the field of two elements, as `IsRemainder` reads it. -/
noncomputable def bitsPoly (bits : List Bool) : (ZMod 2)[X] := bits.foldl (fun p b => p * X + if b then 1 else 0) 0

theorem isRemainder_iff {dividend generator remainder : List Bool} :
    IsRemainder dividend generator remainder ↔ remainder.length < generator.length ∧
      ∃ quotient, bitsPoly dividend = quotient * bitsPoly generator + bitsPoly remainder :=
  Iff.rfl

@[simp] theorem bitsPoly_nil : bitsPoly [] = 0 := rfl

theorem bitsPoly_singleton (b : Bool) : bitsPoly [b] = if b then 1 else 0 := by
  simp [bitsPoly]

theorem bitsPoly_append (xs ys : List Bool) : bitsPoly (xs ++ ys) = bitsPoly xs * X ^ ys.length + bitsPoly ys := by
  induction ys using List.reverseRecOn with
  | nil => simp
  | append_singleton ys y ih =>
    have hsnoc (zs : List Bool) : bitsPoly (zs ++ [y]) = bitsPoly zs * X + if y then 1 else 0 :=
      List.foldl_concat ..
    rw [← List.append_assoc, hsnoc, hsnoc, ih, List.length_append, List.length_singleton, pow_succ]
    ring

theorem bitsPoly_cons (x : Bool) (xs : List Bool) :
    bitsPoly (x :: xs) = (if x then 1 else 0) * X ^ xs.length + bitsPoly xs := by
  rw [← bitsPoly_singleton, ← bitsPoly_append, List.singleton_append]

@[simp] theorem bitsPoly_replicate_false (n : Nat) : bitsPoly (List.replicate n false) = 0 := by
  induction n with
  | zero => rfl
  | succ n ih => simp [List.replicate_succ, bitsPoly_cons, ih]

/-- Over the field of two elements XOR of bits is addition. -/
theorem ite_xor_eq_add (x y : Bool) :
    (if xor x y then 1 else 0 : (ZMod 2)[X]) = (if x then 1 else 0) + if y then 1 else 0 := by
  cases x <;> cases y <;> simp [CharTwo.add_self_eq_zero]

theorem length_xorOnto {xs ys : List Bool} (h : xs.length ≤ ys.length) : (xorOnto xs ys).length = ys.length := by
  induction xs generalizing ys with
  | nil => rfl
  | cons x xs ih =>
    cases ys with
    | nil => exact absurd h (Nat.not_succ_le_zero _)
    | cons y ys => simp [xorOnto, ih (Nat.le_of_succ_le_succ h)]

/-- Bits XORed onto the first bits of a string add the polynomial, moved up to these. -/
theorem bitsPoly_xorOnto {xs ys : List Bool} {k : Nat} (h : ys.length = xs.length + k) :
    bitsPoly (xorOnto xs ys) = bitsPoly xs * X ^ k + bitsPoly ys := by
  induction xs generalizing ys with
  | nil => simp [xorOnto]
  | cons x xs ih =>
    cases ys with
    | nil => rw [List.length_nil, List.length_cons] at h; omega
    | cons y ys =>
      have hlen : ys.length = xs.length + k := by rw [List.length_cons, List.length_cons] at h; omega
      rw [xorOnto, bitsPoly_cons, bitsPoly_cons, bitsPoly_cons, ih hlen, length_xorOnto (by omega), hlen,
        ite_xor_eq_add, pow_add]
      ring

/-! ### The polynomial of a value -/

@[simp] theorem length_msbBits {w : Nat} (v : BitVec w) : (msbBits v).length = w := by
  simp [msbBits]

theorem msbBits_append {m n : Nat} (x : BitVec m) (y : BitVec n) : msbBits (x ++ y) = msbBits x ++ msbBits y := by
  refine List.ext_getElem (by simp) fun i hi _ => ?_
  have hi : i < m + n := by simpa using hi
  simp only [msbBits, List.getElem_append, List.getElem_map, List.getElem_range, List.length_map, List.length_range,
    BitVec.getLsbD_append]
  by_cases h : i < m
  · rw [if_neg (by omega), dif_pos h]
    congr 1
    omega
  · rw [if_pos (by omega), dif_neg h]
    congr 1
    omega

theorem xorOnto_map {α : Type} (f g : α → Bool) (is : List α) :
    xorOnto (is.map f) (is.map g) = is.map fun i => xor (f i) (g i) := by
  induction is with
  | nil => rfl
  | cons i is ih => simp [xorOnto, ih]

theorem msbBits_xor {w : Nat} (a b : BitVec w) : msbBits (a ^^^ b) = xorOnto (msbBits a) (msbBits b) := by
  simp [msbBits, xorOnto_map]

@[simp] theorem msbBits_zero (w : Nat) : msbBits (0#w) = List.replicate w false := by
  simp [msbBits]

theorem bitsPoly_msbBits_xor {w : Nat} (a b : BitVec w) :
    bitsPoly (msbBits (a ^^^ b)) = bitsPoly (msbBits a) + bitsPoly (msbBits b) := by
  rw [msbBits_xor, bitsPoly_xorOnto (k := 0) (by simp), pow_zero, mul_one]

theorem bitsPoly_generatorBits (p : Word16) : bitsPoly (generatorBits p) = X ^ 16 + bitsPoly (msbBits p) := by
  simp [generatorBits, bitsPoly_cons]

/-- The byte is added at the high end of the register. -/
theorem bitsPoly_mix (r : Word16) (b : Byte) :
    bitsPoly (msbBits (mix r b)) = bitsPoly (msbBits r) + bitsPoly (msbBits b) * X ^ 8 := by
  have hbyte : msbBits (ofBytes b 0#8) = msbBits b ++ List.replicate 8 false :=
    (msbBits_append b 0#8).trans (congrArg _ (msbBits_zero 8))
  rw [mix_eq_xor, bitsPoly_msbBits_xor, mix_zero_register, hbyte, bitsPoly_append, bitsPoly_replicate_false,
    List.length_replicate, add_zero]

/-! ### The bit steps divide by the generator (R113) -/

/-- The tested bit is the first of the register, and the shift puts a zero behind the others. -/
theorem msbBits_shiftLeft_one (r : Word16) :
    ∃ low : List Bool, low.length = 15 ∧ msbBits r = r.getLsbD 15 :: low ∧ msbBits (r <<< 1) = low ++ [false] := by
  have hr : r.extractLsb' 15 1 ++ r.extractLsb' 0 15 = r :=
    BitVec.extractLsb'_append_extractLsb' (w := 1) (len := 15) (x := r)
  have hs : r <<< 1 = r.extractLsb' 0 15 ++ 0#1 := BitVec.shiftLeft_eq_concat_of_lt (by decide)
  refine ⟨msbBits (r.extractLsb' 0 15), length_msbBits _, ?_, ?_⟩
  · calc msbBits r = msbBits (r.extractLsb' 15 1 ++ r.extractLsb' 0 15) := congrArg msbBits hr.symm
      _ = msbBits (r.extractLsb' 15 1) ++ msbBits (r.extractLsb' 0 15) := msbBits_append _ _
      _ = r.getLsbD 15 :: msbBits (r.extractLsb' 0 15) := by simp [msbBits]
  · exact (congrArg msbBits hs).trans (msbBits_append _ _)

/-- A bit step multiplies the register by `X` and takes the generator away where the tested bit was set. -/
theorem bitsPoly_bitStep (p r : Word16) :
    bitsPoly (msbBits r) * X =
      (if r.getLsbD 15 then 1 else 0) * bitsPoly (generatorBits p) + bitsPoly (msbBits (bitStep p r)) := by
  obtain ⟨low, hlen, hr, hs⟩ := msbBits_shiftLeft_one r
  have htwo : (2 : (ZMod 2)[X]) = 0 := CharTwo.two_eq_zero
  have hshift : bitsPoly (msbBits (r <<< 1)) = bitsPoly low * X := by
    rw [hs, bitsPoly_append, bitsPoly_singleton]
    simp
  have hreg : bitsPoly (msbBits r) = (if r.getLsbD 15 then 1 else 0) * X ^ 15 + bitsPoly low := by
    rw [hr, bitsPoly_cons, hlen]
  rw [hreg, bitsPoly_generatorBits]
  cases h : r.getLsbD 15 with
  | false =>
    rw [bitStep_of_top_clear h, hshift]
    simp
  | true =>
    rw [bitStep_of_top_set h, bitsPoly_msbBits_xor, hshift, if_pos rfl]
    linear_combination -bitsPoly (msbBits p) * htwo

/-- `n` bit steps leave the register times `X ^ n`, less a multiple of the generator. -/
theorem bitsPoly_bitSteps (p : Word16) (n : Nat) (r : Word16) :
    ∃ quotient, bitsPoly (msbBits r) * X ^ n =
      quotient * bitsPoly (generatorBits p) + bitsPoly (msbBits (bitSteps p n r)) := by
  induction n with
  | zero => exact ⟨0, by simp⟩
  | succ n ih =>
    obtain ⟨quotient, hq⟩ := ih
    refine ⟨quotient * X + if (bitSteps p n r).getLsbD 15 then 1 else 0, ?_⟩
    rw [bitSteps_succ']
    linear_combination X * hq + bitsPoly_bitStep p (bitSteps p n r)

/-! ### The dividend, byte by byte (R113) -/

theorem dividendBits_nil (cfg : Cfg) : dividendBits cfg [] = msbBits cfg.initialValue := by
  have hzero : List.replicate 16 false = msbBits 0#16 := (msbBits_zero 16).symm
  rw [dividendBits, messageBits, List.flatMap_nil, List.nil_append, hzero, ← msbBits_xor, BitVec.xor_zero]

theorem bitsPoly_dividendBits (cfg : Cfg) (message : List Byte) :
    bitsPoly (dividendBits cfg message) =
      bitsPoly (msbBits cfg.initialValue) * X ^ (messageBits cfg message).length +
        bitsPoly (messageBits cfg message) * X ^ 16 := by
  rw [dividendBits, bitsPoly_xorOnto (k := (messageBits cfg message).length) (by simp [Nat.add_comm]), bitsPoly_append,
    bitsPoly_replicate_false, List.length_replicate, add_zero]

/-- A further byte moves the dividend up by its eight bits, and adds them above the 16 zeros. -/
theorem bitsPoly_dividendBits_snoc (cfg : Cfg) (message : List Byte) (b : Byte) :
    bitsPoly (dividendBits cfg (message ++ [b])) =
      bitsPoly (dividendBits cfg message) * X ^ 8 + bitsPoly (msbBits (inputByte cfg b)) * X ^ 16 := by
  have hbits : messageBits cfg (message ++ [b]) = messageBits cfg message ++ msbBits (inputByte cfg b) := by
    simp [messageBits]
  rw [bitsPoly_dividendBits, bitsPoly_dividendBits, hbits, bitsPoly_append, List.length_append, length_msbBits, pow_add]
  ring

/-! ### The register is the remainder (R113) -/

/-- The register `r` is the remainder for the message and the configuration. -/
theorem isRemainder_register_iff {cfg : Cfg} {message : List Byte} {r : Word16} :
    IsRemainder (dividendBits cfg message) (generatorBits cfg.polynomial) (msbBits r) ↔
      ∃ quotient, bitsPoly (dividendBits cfg message) =
        quotient * bitsPoly (generatorBits cfg.polynomial) + bitsPoly (msbBits r) := by
  simp [isRemainder_iff, generatorBits]

theorem isRemainder_initialValue (cfg : Cfg) :
    IsRemainder (dividendBits cfg []) (generatorBits cfg.polynomial) (msbBits cfg.initialValue) :=
  isRemainder_register_iff.mpr ⟨0, by rw [dividendBits_nil, zero_mul, zero_add]⟩

/-- `PROCESS` goes from the remainder for a message to that for the message with its byte behind it. -/
theorem isRemainder_processByte {cfg : Cfg} {message : List Byte} {r : Word16} (b : Byte)
    (h : IsRemainder (dividendBits cfg message) (generatorBits cfg.polynomial) (msbBits r)) :
    IsRemainder (dividendBits cfg (message ++ [b])) (generatorBits cfg.polynomial) (msbBits (processByte cfg r b)) := by
  obtain ⟨q₁, hdividend⟩ := isRemainder_register_iff.mp h
  obtain ⟨q₂, hsteps⟩ := bitsPoly_bitSteps cfg.polynomial 8 (mix r (inputByte cfg b))
  rw [bitsPoly_mix] at hsteps
  refine isRemainder_register_iff.mpr ⟨q₁ * X ^ 8 + q₂, ?_⟩
  rw [bitsPoly_dividendBits_snoc, processByte]
  linear_combination X ^ 8 * hdividend + hsteps

theorem isRemainder_processBytes {cfg : Cfg} {message : List Byte} {r : Word16} (bytes : List Byte)
    (h : IsRemainder (dividendBits cfg message) (generatorBits cfg.polynomial) (msbBits r)) :
    IsRemainder (dividendBits cfg (message ++ bytes)) (generatorBits cfg.polynomial)
      (msbBits (processBytes cfg r bytes)) := by
  induction bytes generalizing message r with
  | nil => rwa [List.append_nil]
  | cons b bytes ih => rw [List.append_cons]; exact ih (isRemainder_processByte b h)

/-- An instance fed with bytes holds the remainder for the message with these bytes behind it. -/
theorem State.HoldsRemainder.feed {cfg : Cfg} {message bytes : List Byte} {s t : State}
    (hs : s.HoldsRemainder cfg message) (ht : t.engine = s.engine.map (Engine.feed bytes)) :
    t.HoldsRemainder cfg (message ++ bytes) := by
  obtain ⟨r, he, hr⟩ := hs
  exact ⟨_, by rw [ht, he]; rfl, isRemainder_processBytes bytes hr⟩

theorem construct_holdsRemainder (cfg : Cfg) (s : State) : (s.construct cfg).HoldsRemainder cfg [] :=
  ⟨_, s.construct_engine cfg, isRemainder_initialValue cfg⟩

/-! ### Runs of a buffer -/

theorem codeAssigned_encode (i : Instr) : (encode i).codeAssigned = true :=
  codeAssigned_iff_decode_ok.mpr ⟨i, decode_encode i⟩

@[simp] theorem length_processCommands (buffer : List Byte) : (processCommands buffer).length = buffer.length :=
  List.length_map _

theorem codeAssigned_of_mem_processCommands {buffer : List Byte} {c : Command} (hc : c ∈ processCommands buffer) :
    c.codeAssigned = true := by
  obtain ⟨b, -, rfl⟩ := List.mem_map.mp hc
  exact codeAssigned_encode _

@[simp] theorem bytesOf_processCommands (buffer : List Byte) : bytesOf (processCommands buffer) = buffer := by
  have hbyte (b : Byte) : (encode (.process b)).processOperand = some b := by
    simp [Command.processOperand, decode_encode]
  simp [bytesOf, processCommands, List.filterMap_map, hbyte]

/-- The state after a run of commands with assigned codes and a `GET` behind them, whole. -/
theorem run_then_get_eq {cs rest : List Command} {s : State} {e : Engine} (hcs : ∀ c ∈ cs, c.codeAssigned = true)
    (he : s.engine = some e) (hp : s.pending = cs ++ encode .get :: rest) :
    run (cs.length + 1) s = .next
      { engine := some (e.feed (bytesOf cs)), pending := rest,
        dout := some (placeResult (checksum e.cfg (processBytes e.cfg e.reg (bytesOf cs)))) } := by
  obtain ⟨t, hrun, htp, hte⟩ := registerDependsOnlyOnTheBytesIssued cs _ s e hcs he hp
  have hstep := (step_of_decode_ok htp (i := .get) rfl).trans (exec_get_of_engine hte)
  rw [run_add_of_next hrun, run_succ_of_next hstep, hte]
  rfl

/-- A buffer issued to an idle instance is taken whole, and its bytes are fed to the instance. -/
theorem run_processCommands (buffer : List Byte) {s : State} {e : Engine} (he : s.engine = some e)
    (hp : s.pending = []) :
    ∃ t : State, run buffer.length (s.issue (processCommands buffer)) = .next t ∧ t.pending = [] ∧
      t.engine = some (e.feed buffer) := by
  obtain ⟨t, hrun, htp, hte⟩ := registerDependsOnlyOnTheBytesIssued (processCommands buffer) []
    (s.issue (processCommands buffer)) e (fun _ => codeAssigned_of_mem_processCommands) he (by simp [hp])
  rw [length_processCommands] at hrun
  rw [bytesOf_processCommands] at hte
  exact ⟨t, hrun, htp, hte⟩

/-- With a `GET` behind the buffer its checksum is on `dout` in the end. -/
theorem run_processCommands_then_get (buffer : List Byte) {s : State} {e : Engine} (he : s.engine = some e)
    (hp : s.pending = []) :
    run (buffer.length + 1) (s.issue (processCommands buffer ++ [encode .get])) = .next
      { engine := some (e.feed buffer), pending := [],
        dout := some (placeResult (checksum e.cfg (processBytes e.cfg e.reg buffer))) } := by
  have hrun := run_then_get_eq (cs := processCommands buffer) (rest := [])
    (s := s.issue (processCommands buffer ++ [encode .get])) (fun _ => codeAssigned_of_mem_processCommands) he
    (by simp [hp])
  rwa [length_processCommands, bytesOf_processCommands] at hrun

/-! ### The checksum (R109) -/

theorem checksum_getLsbD (cfg : Cfg) (r : Word16) {i : Nat} (hi : i < 16) :
    (checksum cfg r).getLsbD i =
      xor (if cfg.reflectOut then r.getLsbD (15 - i) else r.getLsbD i) (cfg.xorOut.getLsbD i) := by
  rw [checksum, BitVec.getLsbD_xor]
  split
  · rw [reflect_getLsbD r hi]
  · rfl

/-! ### The statements -/

/-- Settles O10: the single expression, and what it is bit by bit and at the corner cases. -/
theorem bitStepShiftsAndConditionallyXors : Obligations.BitStepShiftsAndConditionallyXors :=
  fun p r => ⟨bitStep_eq_xor p r, bitStep_getLsbD_zero p r, fun _ hi => bitStep_getLsbD_succ p r hi, bitStep_zero p,
    bitStep_polynomial_zero r, by simp [bitStep_eq_xor]⟩

/-- Settles O11: the two bytes of the mixed value. -/
theorem mixTouchesTheHighByteOnly : Obligations.MixTouchesTheHighByteOnly := by
  intro r b
  exact ⟨rfl, by rw [mix_eq_ofBytes, ofBytes_highByte], by rw [mix_eq_ofBytes, ofBytes_lowByte]⟩

/-- Settles O12: the reversal of the byte, or the byte. -/
theorem inputReflectionIsSelectedByReflectIn : Obligations.InputReflectionIsSelectedByReflectIn :=
  fun cfg b _ hi => inputByte_getLsbD cfg b hi

/-- Settles O13: the values of the rule's pseudocode are the mixed value and what each bit step makes of it. -/
theorem processFoldsOneByteIntoTheRegister : Obligations.ProcessFoldsOneByteIntoTheRegister :=
  ⟨decode_code_100, fun b _ e he =>
    ⟨inputByte e.cfg b, fun k => bitSteps e.cfg.polynomial k (mix e.reg (inputByte e.cfg b)),
      fun _ hi => inputByte_getLsbD e.cfg b hi, rfl, fun k _ => bitSteps_succ' _ k _,
      exec_eq_complete_instanceStep (.process b) he⟩⟩

/-- Settles O14: one bit step is linear, so eight are, and register and byte enter through the mixed value alone. -/
theorem processIsLinearOverXor : Obligations.ProcessIsLinearOverXor :=
  ⟨bitStep_xor, bitStep_zero, processByte_eq_xor, fun cfg _ _ _ _ h => congrArg (bitSteps cfg.polynomial 8) h⟩

/-- Settles O15: the mixed high byte selects the entry, and the low byte is only shifted up. -/
theorem tableDrivenEngineComputesTheSame : Obligations.TableDrivenEngineComputesTheSame := by
  intro p
  refine ⟨processTable p, length_processTable p, ?_⟩
  rintro cfg r b rfl
  rw [processTable_getElem?, processByte_eq_highByte_xor_shift, BitVec.xor_assoc, BitVec.xor_self, BitVec.xor_zero]

/-- Settles O16: a cancelled high byte leaves the low byte only, and with polynomial zero the high byte is shifted
out. -/
theorem cancelledBytesShiftTheLowByteUp : Obligations.CancelledBytesShiftTheLowByteUp := by
  have hcancel {cfg : Cfg} {r : Word16} {b : Byte} (h : inputByte cfg b = r.extractLsb' 8 8) :
      processByte cfg r b = r <<< 8 := by
    rw [processByte_eq_highByte_xor_shift, h, BitVec.xor_self, mix_zero_byte, bitSteps_of_zero, BitVec.zero_xor]
  refine fun cfg r b => ⟨?_, ?_⟩
  · rintro (hbyte | hpoly)
    · exact hcancel hbyte
    · have hout : ofBytes 0#8 0#8 = 0#16 := rfl
      rw [processByte_eq_highByte_xor_shift, hpoly, bitSteps_polynomial_zero, mix_zero_register, shiftLeft_eight,
        ofBytes_lowByte, hout, BitVec.zero_xor]
  · rintro ⟨rfl, rfl⟩
    rw [hcancel (inputByte_zero cfg)]
    rfl

/-- Settles O18: the register after a byte and the checksum are computed from the other fields. -/
theorem eachCommandReadsOnlyItsOwnConfigurationFields : Obligations.EachCommandReadsOnlyItsOwnConfigurationFields :=
  ⟨fun _ e b _ _ _ he => ⟨_, _, processByte e.cfg e.reg b, exec_eq_complete_instanceStep (.process b) he,
      exec_eq_complete_instanceStep (.process b) rfl, rfl, rfl⟩,
    fun _ _ _ _ _ he => ⟨_, _, exec_get_of_engine he, exec_get_of_engine rfl, rfl⟩⟩

/-- Settles O19: the checksum bit by bit, placed on the bus. -/
theorem getReturnsTheChecksum : Obligations.GetReturnsTheChecksum := by
  refine ⟨decode_code_101, fun s e he =>
    ⟨placeResult (checksum e.cfg e.reg), exec_get_of_engine he, fun i hi => ?_, fun i hi _ => ?_⟩⟩
  · rw [placeResult_getLsbD, decide_eq_true (by omega), Bool.true_and, checksum_getLsbD _ _ hi]
  · rw [placeResult_getLsbD, BitVec.getLsbD_of_ge _ i hi, Bool.and_false]

/-- Settles O21: `CONSTRUCT` does not read the state it finds. -/
theorem constructSeedsTheRegister : Obligations.ConstructSeedsTheRegister :=
  fun cfg s => ⟨s.construct_engine cfg, fun _ => State.construct_eq _ cfg s⟩

/-- Settles O22: `GET` on the register that `CONSTRUCT` leaves. -/
theorem emptyMessageGivesTheInitialValueTransformed : Obligations.EmptyMessageGivesTheInitialValueTransformed := by
  intro cfg s
  rw [exec_get_of_engine (s.construct_engine cfg), checksum, BitVec.xor_comm]
  rfl

/-- Settles O37: an instruction completes as the step function of the instance has it, which is total. -/
theorem everyInstructionCompletesOnAConstructedInstance :
    Obligations.EveryInstructionCompletesOnAConstructedInstance :=
  ⟨fun cfg s => ⟨_, s.construct_engine cfg, rfl⟩, fun i _ _ he => ⟨_, _, exec_eq_complete_instanceStep i he, rfl, rfl⟩⟩

/-- Settles O42: what is fed before the split and what is fed after it are the buffer. -/
theorem chunkingDoesNotMatter : Obligations.ChunkingDoesNotMatter := by
  intro buffer k s e he hp
  obtain ⟨first, hfirst, hpend, heng⟩ := run_processCommands (buffer.take k) he hp
  refine ⟨_, first, _, run_processCommands_then_get buffer he hp, hfirst,
    run_processCommands_then_get (buffer.drop k) heng hpend, ?_⟩
  simp only [Engine.feed, ← processBytes_append, List.take_append_drop]

/-- Settles O44: `CONSTRUCT` leaves one state from both, and the bytes decide the state after the `GET`. -/
theorem equalConfigurationsAndInputsGiveEqualRuns : Obligations.EqualConfigurationsAndInputsGiveEqualRuns := by
  refine fun cfg s₁ s₂ => ⟨fun _ _ => rfl, fun cs₁ cs₂ hcs hbytes => ?_⟩
  obtain ⟨hcs₁, hcs₂⟩ := List.forall_mem_append.mp hcs
  have hrun (s : State) {cs : List Command} (hcs : ∀ c ∈ cs, c.codeAssigned = true) :=
    run_then_get_eq (s := (s.construct cfg).issue (cs ++ [encode .get])) hcs (s.construct_engine cfg) rfl
  exact ⟨_, hrun s₁ hcs₁, hbytes ▸ hrun s₂ hcs₂, rfl⟩

/-- Settles O45: the register byte by byte, in the two orders. -/
theorem byteOrderMatters : Obligations.ByteOrderMatters := by
  have h31 : processByte presetXmodem 0x0000#16 0x31#8 = 0x2672#16 := by decide
  have h32 : processByte presetXmodem 0x2672#16 0x32#8 = 0x20B5#16 := by decide
  have h32' : processByte presetXmodem 0x0000#16 0x32#8 = 0x1611#16 := by decide
  have h31' : processByte presetXmodem 0x1611#16 0x31#8 = 0x4585#16 := by decide
  constructor
  · rw [processBytes_cons, h31, processBytes_cons, h32, processBytes_nil]
  · rw [processBytes_cons, h32', processBytes_cons, h31', processBytes_nil]

/-- Settles O47: `CONSTRUCT` leaves the remainder of the empty message, and the run feeds the message. -/
theorem registerIsTheRemainderOfPolynomialDivision : Obligations.RegisterIsTheRemainderOfPolynomialDivision := by
  intro cfg message s
  obtain ⟨t, hrun, hpend, heng⟩ := run_processCommands message (s.construct_engine cfg) (s.construct_pending cfg)
  exact ⟨t, hrun, hpend, (construct_holdsRemainder cfg s).feed heng⟩

/-- Settles O48: a step feeds the byte of the command it takes, and an idle step feeds none. -/
theorem everyStepKeepsTheRegisterARemainder : Obligations.EveryStepKeepsTheRegisterARemainder := by
  intro cfg message s t hs h
  cases hp : s.pending with
  | nil =>
    cases (step_of_pending_nil hp).symm.trans h
    exact ⟨hs.feed (by simp [bytesOf]), hp⟩
  | cons c rest =>
    obtain ⟨hpend, heng⟩ := step_takes_command hp h
    exact ⟨hs.feed heng, hpend⟩

/-- Settles O49: reset is `CONSTRUCT` with the open configuration. -/
theorem resetHoldsTheRemainderOfTheEmptyMessage : Obligations.ResetHoldsTheRemainderOfTheEmptyMessage :=
  construct_holdsRemainder Config.cfg State.reset

end Sys2Proof.Machine
end

section
/-! The statement about the presets (spec/42_presets.md): the registers that the check message leaves in each of them,
byte by byte (spec/95_test_vectors.md, section 2), and the checksum that `GET` makes of the last. -/

namespace Sys2Proof.Machine

/-! ### What `GET` drives after `CONSTRUCT`, without and with the check message (R72, R111) -/

theorem construct_then_get_dout (cfg : Cfg) (s : State) :
    (nextState (exec .get (s.construct cfg))).bind (·.dout) = some (placeResult (checksum cfg cfg.initialValue)) := by
  rw [exec_get_of_engine (s.construct_engine cfg)]
  rfl

theorem run_issueCheck_dout (cfg : Cfg) (s : State) :
    (nextState (run 10 (s.issueCheck cfg))).bind (·.dout) =
      some (placeResult (checksum cfg (processBytes cfg cfg.initialValue checkMessage))) := by
  have hrun : run 10 (s.issueCheck cfg) = _ :=
    run_processCommands_then_get checkMessage (s.construct_engine cfg) (s.construct_pending cfg)
  rw [hrun]
  rfl

/-! ### The registers after each byte of the check message -/

/-- If each byte takes the register before it to the next register listed, the buffer leaves the last one listed. -/
theorem processBytes_of_registers {cfg : Cfg} {r : Word16} {buffer : List Byte} {registers : List Word16}
    (h : List.zipWith (processByte cfg) (r :: registers) buffer = registers) :
    processBytes cfg r buffer = registers.getLastD r := by
  induction buffer generalizing r registers with
  | nil =>
    rw [List.zipWith_nil_right] at h
    rw [← h, List.getLastD_nil, processBytes_nil]
  | cons b buffer ih =>
    cases registers with
    | nil => cases h
    | cons r' registers =>
      obtain ⟨hbyte, hrest⟩ := List.cons.inj h
      rw [processBytes_cons, hbyte, ih hrest, List.getLastD_cons]

/-- XMODEM (spec/95_test_vectors.md, section 2.1). -/
def xmodemRegisters : List Word16 :=
  [0x2672#16, 0x20B5#16, 0x9752#16, 0xD789#16, 0x546C#16, 0x20E4#16, 0x86D6#16, 0x9015#16, 0x31C3#16]

/-- KERMIT (section 2.2). -/
def kermitRegisters : List Word16 :=
  [0x5004#16, 0xD7BD#16, 0x1E5A#16, 0x4C11#16, 0xEC2E#16, 0xBF88#16, 0xE296#16, 0x98D1#16, 0x9184#16]

/-- IBM-3740 (section 2.3). -/
def ibm3740Registers : List Word16 :=
  [0xC782#16, 0x3DBA#16, 0x5BCE#16, 0x5349#16, 0x4560#16, 0x2EF4#16, 0x7718#16, 0xA12B#16, 0x29B1#16]

/-- SPI-FUJITSU (section 2.4). -/
def spiFujitsuRegisters : List Word16 :=
  [0xEAEE#16, 0xA475#16, 0x865E#16, 0xD999#16, 0xA5A2#16, 0x11DA#16, 0x9EA4#16, 0x712C#16, 0xE5CC#16]

theorem processBytes_xmodem_checkMessage :
    processBytes presetXmodem presetXmodem.initialValue checkMessage = 0x31C3#16 :=
  processBytes_of_registers (registers := xmodemRegisters) (by decide)

theorem processBytes_kermit_checkMessage :
    processBytes presetKermit presetKermit.initialValue checkMessage = 0x9184#16 :=
  processBytes_of_registers (registers := kermitRegisters) (by decide)

theorem processBytes_ibm3740_checkMessage :
    processBytes presetIbm3740 presetIbm3740.initialValue checkMessage = 0x29B1#16 :=
  processBytes_of_registers (registers := ibm3740Registers) (by decide)

theorem processBytes_spiFujitsu_checkMessage :
    processBytes presetSpiFujitsu presetSpiFujitsu.initialValue checkMessage = 0xE5CC#16 :=
  processBytes_of_registers (registers := spiFujitsuRegisters) (by decide)

/-! ### The statement -/

/-- Settles O46: the checksums of the registers that the check message leaves, and of the initial values. Only KERMIT
reflects its register for `dout`. -/
theorem presetsGiveTheirCheckValues : Obligations.PresetsGiveTheirCheckValues := by
  refine ⟨rfl, fun s => ⟨?check, ?empty⟩⟩
  case check =>
    simp only [List.map_cons, List.map_nil, run_issueCheck_dout, processBytes_xmodem_checkMessage,
      processBytes_kermit_checkMessage, processBytes_ibm3740_checkMessage, processBytes_spiFujitsu_checkMessage]
    decide
  case empty =>
    simp only [List.map_cons, List.map_nil, construct_then_get_dout]
    decide

end Sys2Proof.Machine
end

section
/-! The statements about exceptions (spec/60_exceptions.md): nothing faults, only two things are refused, safe states
step to safe states, a coinciding reset wins, and any interleaving gives each instance its own run. -/

namespace Sys2Proof.Machine

/-! ### What a refusal says -/

/-- An instruction is refused exactly where an engine operation finds no instance (spec/10_state.md R34). -/
theorem exec_eq_refused_iff {i : Instr} {s : State} {r : Refusal} :
    exec i s = .refused r ↔ s.engine = none ∧
      ((i = .get ∧ r = .unconstructed "GET") ∨ ∃ b, i = .process b ∧ r = .unconstructed "PROCESS") := by
  cases he : s.engine with
  | some e => simp [exec_eq_complete_instanceStep i he]
  | none =>
    obtain ⟨hprocess, hget⟩ := unconstructedEngineCommandsAreRefused s he
    cases i with
    | process b => simp [hprocess, eq_comm]
    | get => simp [hget, eq_comm]
    | _ => simp [exec, execReflect8, execReflect16, execReflect32, execReflect64]

/-- A code that is not assigned is one the decoder rejects, by its name (spec/30_encoding.md R67). -/
theorem codeAssigned_eq_false_iff {c : Command} :
    c.codeAssigned = false ↔ decode c = .error (.reservedCode c.op) := by
  rw [← Bool.not_eq_true, codeAssigned_iff_decode_ok]
  cases h : decode c with
  | ok i => simp
  | error err => simp [(decode_eq_error_iff.mp h).1]

/-- A step is refused exactly for a command whose code is not assigned, or for an engine operation where there is no
instance, each under its name. -/
theorem step_eq_refused_iff {s : State} {r : Refusal} :
    step s = .refused r ↔ ∃ (c : Command) (rest : List Command), s.pending = c :: rest ∧
      ((r = .reservedCode c.op ∧ c.codeAssigned = false) ∨
        (s.engine = none ∧ ((decode c = .ok .get ∧ r = .unconstructed "GET") ∨
          ∃ b, decode c = .ok (.process b) ∧ r = .unconstructed "PROCESS"))) := by
  cases hp : s.pending with
  | nil => simp [step_of_pending_nil hp]
  | cons c rest =>
    cases hd : decode c with
    | ok i => simp [step_of_decode_ok hp hd, exec_eq_refused_iff, codeAssigned_eq_false_iff, hd]
    | error err =>
      obtain rfl := (decode_eq_error_iff.mp hd).1
      simpa [step_of_decode_error hp hd, codeAssigned_eq_false_iff, hd, refusalOf] using eq_comm

/-- Settles O40: the block has no faults, and the causes of a refusal are the two. -/
theorem nothingFaultsAndOnlyTwoThingsAreRefused : Obligations.NothingFaultsAndOnlyTwoThingsAreRefused :=
  fun _ => ⟨nofun, fun _ => step_eq_refused_iff.mp⟩

/-! ### Safe states -/

theorem State.safe_iff {s : State} :
    s.safe = true ↔ (∃ e, s.engine = some e) ∧ ∀ c ∈ s.pending, c.codeAssigned = true := by
  simp [State.safe, State.constructed, Option.isSome_iff_exists]

/-- Settles O38: with nothing issued the block is idle, and a command of an assigned code is taken off the stream and
leaves the instance there. -/
theorem safeStatesStepToSafeStates : Obligations.SafeStatesStepToSafeStates := by
  intro s hsafe
  obtain ⟨⟨e, he⟩, hcodes⟩ := State.safe_iff.mp hsafe
  cases hp : s.pending with
  | nil => exact ⟨_, step_of_pending_nil hp, hsafe⟩
  | cons c rest =>
    obtain ⟨hc, hrest⟩ := List.forall_mem_cons.mp (hp ▸ hcodes)
    obtain ⟨t, ht⟩ := step_of_codeAssigned he hp hc
    obtain ⟨htp, hte⟩ := step_takes_command hp ht
    exact ⟨t, ht, State.safe_iff.mpr ⟨⟨_, by rw [hte, he]; rfl⟩, htp ▸ hrest⟩⟩

/-! ### A coinciding reset -/

/-- Settles O24: `CONSTRUCT` does not read the state it finds, so neither the command nor what stands behind it
counts. -/
theorem resetWinsOverTheCommandInFlight : Obligations.ResetWinsOverTheCommandInFlight :=
  fun cfg s _ rest _ => ⟨State.construct_eq _ cfg s, State.construct_eq _ cfg { s with pending := rest },
    s.construct_engine cfg, s.construct_pending cfg, s.construct_dout cfg⟩

/-! ### Attempts, one after another -/

/-- Whether a step is refused does not depend on the result bus. -/
theorem step_undriven_of_refused {s : State} {r : Refusal} (h : step s = .refused r) :
    step { s with dout := none } = .refused r :=
  have hcause := step_eq_refused_iff.mp h
  step_eq_refused_iff.mpr hcause

/-- A refused command stays at the head, so every attempt on it leaves what the first one left (log 21). -/
theorem iterate_attempt_of_refused {s : State} {r : Refusal} (h : step s = .refused r) (n : Nat) :
    State.attempt^[n + 1] s = { s with dout := none } := by
  rw [Function.iterate_succ_apply, State.attempt_of_refused h]
  exact Function.iterate_fixed (State.attempt_of_refused (step_undriven_of_refused h)) n

theorem foldl_act_replicate_step (n : Nat) (s : State) :
    (List.replicate n Action.step).foldl State.act s = State.attempt^[n] s := by
  induction n generalizing s with
  | zero => rfl
  | succ n ih => exact ih s.attempt

theorem run_succ_of_refused {n : Nat} {s : State} {r : Refusal} (h : step s = .refused r) :
    run (n + 1) s = .refused r := by
  simp only [run, h]

/-- Attempts are the steps of a run, as long as it goes on. -/
theorem iterate_attempt_of_run_next {n : Nat} {s t : State} (h : run n s = .next t) : State.attempt^[n] s = t := by
  induction n generalizing s with
  | zero => exact Host.Outcome.next.inj h
  | succ n ih =>
    cases hs : step s with
    | next u =>
      rw [Function.iterate_succ_apply, State.attempt_of_next hs]
      exact ih ((run_succ_of_next hs).symm.trans h)
    | fault f => cases f
    | refused r => cases (run_succ_of_refused hs).symm.trans h

/-- A refused run goes on up to the step that is refused. -/
theorem exists_step_refused_of_run_refused {n : Nat} {s : State} {r : Refusal} (h : run n s = .refused r) :
    ∃ (m : Nat) (u : State), m < n ∧ run m s = .next u ∧ step u = .refused r := by
  induction n generalizing s with
  | zero => cases h
  | succ n ih =>
    cases hs : step s with
    | next t =>
      obtain ⟨m, u, hm, hrun, hu⟩ := ih ((run_succ_of_next hs).symm.trans h)
      exact ⟨m + 1, u, Nat.succ_lt_succ hm, (run_succ_of_next hs).trans hrun, hu⟩
    | fault f => cases f
    | refused r' => exact ⟨0, s, n.succ_pos, rfl, hs.trans ((run_succ_of_refused hs).symm.trans h)⟩

/-- Where a run is refused, as many attempts end before the refused command, with the result bus undriven. -/
theorem iterate_attempt_of_run_refused {n : Nat} {s : State} {r : Refusal} (h : run n s = .refused r) :
    ∃ (m : Nat) (u : State), m < n ∧ run m s = .next u ∧ step u = .refused r ∧
      State.attempt^[n] s = { u with dout := none } := by
  obtain ⟨m, u, hm, hrun, hu⟩ := exists_step_refused_of_run_refused h
  obtain ⟨d, rfl⟩ := Nat.exists_eq_add_of_lt hm
  refine ⟨m, u, hm, hrun, hu, ?_⟩
  rw [Nat.add_assoc, Nat.add_comm, Function.iterate_add_apply, iterate_attempt_of_run_next hrun]
  exact iterate_attempt_of_refused hu d

/-! ### Interleavings -/

theorem System.runSchedule_length (schedule : Schedule) (sys : System) :
    (sys.runSchedule schedule).length = sys.length := by
  induction schedule generalizing sys with
  | nil => rfl
  | cons ka rest ih => exact (ih _).trans (sys.actAt_length ka.1 ka.2)

/-- Of an interleaving each instance sees its own actions alone, in their own order (spec/60_exceptions.md R149). -/
theorem System.runSchedule_getElem? (schedule : Schedule) (sys : System) (k : Nat) :
    (sys.runSchedule schedule)[k]? = sys[k]?.map fun s => (schedule.own k).foldl State.act s := by
  induction schedule generalizing sys with
  | nil => simp [System.runSchedule, Schedule.own]
  | cons ja rest ih =>
    obtain ⟨j, a⟩ := ja
    rw [System.runSchedule, ih, System.actAt_getElem?, Schedule.own]
    by_cases hj : j = k
    · simp [hj, Function.comp_def]
    · simp [hj]

/-- Settles O52: an instance sees its own actions alone, and where these are steps they are attempts, which go on as
its run does, and stand still once a command is refused. -/
theorem anyInterleavingGivesEachInstanceItsOwnRun : Obligations.AnyInterleavingGivesEachInstanceItsOwnRun := by
  refine fun schedule sys => ⟨sys.runSchedule_length schedule, fun k s hk => ?_⟩
  have hown : (sys.runSchedule schedule)[k]? = some ((schedule.own k).foldl State.act s) := by
    rw [System.runSchedule_getElem?, hk]
    rfl
  refine ⟨hown, fun n hn => ?_⟩
  rw [hn, foldl_act_replicate_step] at hown
  refine ⟨fun t ht => ?_, fun r hr => ?_⟩
  · rw [hown, iterate_attempt_of_run_next ht]
  · obtain ⟨m, u, hm, hrun, hu, hend⟩ := iterate_attempt_of_run_refused hr
    exact ⟨m, u, hm, hrun, hu, by rw [hown, hend]⟩

end Sys2Proof.Machine
end

section
/-! The statements about reset and the hazards of software (spec/70_reset_and_hazards.md): reset is `CONSTRUCT`, the
state after it is safe, and a `GET` starts no new message. -/

namespace Sys2Proof.Machine

/-! ### The state after `CONSTRUCT` (R160, R162) -/

/-- Reset is `CONSTRUCT` with the open configuration, and no earlier state survives it (log 1, 3, 4, 9). -/
theorem construct_cfg_eq_reset (s : State) : s.construct Config.cfg = State.reset := rfl

theorem construct_safe (cfg : Cfg) (s : State) : (s.construct cfg).safe = true :=
  State.safe_iff.mpr ⟨⟨_, s.construct_engine cfg⟩, List.forall_mem_nil _⟩

/-! ### Two messages without a `CONSTRUCT` between them (R168) -/

theorem bytesOf_append (cs₁ cs₂ : List Command) : bytesOf (cs₁ ++ cs₂) = bytesOf cs₁ ++ bytesOf cs₂ :=
  List.filterMap_append

theorem bytesOf_get : bytesOf [encode .get] = [] :=
  bytesOf_singleton_of_ne_process (decode_encode .get) nofun

/-- A message, a `GET` and a further message: the bytes of the two messages are all that these commands feed. -/
theorem bytesOf_message_get_message (m₁ m₂ : List Byte) :
    bytesOf (processCommands m₁ ++ [encode .get] ++ processCommands m₂) = m₁ ++ m₂ := by
  rw [bytesOf_append, bytesOf_append, bytesOf_get, List.append_nil, bytesOf_processCommands, bytesOf_processCommands]

theorem codeAssigned_of_mem_message_get_message (m₁ m₂ : List Byte) :
    ∀ c ∈ processCommands m₁ ++ [encode .get] ++ processCommands m₂, c.codeAssigned = true := by
  have hmessage (m : List Byte) : ∀ c ∈ processCommands m, c.codeAssigned = true :=
    fun _ => codeAssigned_of_mem_processCommands
  have hget : ∀ c ∈ [encode .get], c.codeAssigned = true := List.forall_mem_singleton.mpr (codeAssigned_encode .get)
  exact List.forall_mem_append.mpr ⟨List.forall_mem_append.mpr ⟨hmessage m₁, hget⟩, hmessage m₂⟩

/-- Two messages, each with a `GET` behind it, leave the instance fed with both, and the checksum of both on `dout`. -/
theorem run_message_get_message_get (m₁ m₂ : List Byte) {s : State} {e : Engine} (he : s.engine = some e)
    (hp : s.pending = []) :
    run (m₁.length + 1 + (m₂.length + 1))
        (s.issue (processCommands m₁ ++ [encode .get] ++ (processCommands m₂ ++ [encode .get]))) = .next
      { engine := some (e.feed (m₁ ++ m₂)), pending := [],
        dout := some (placeResult (checksum e.cfg (processBytes e.cfg e.reg (m₁ ++ m₂)))) } := by
  have hrun := run_then_get_eq (rest := [])
    (s := s.issue (processCommands m₁ ++ [encode .get] ++ (processCommands m₂ ++ [encode .get])))
    (codeAssigned_of_mem_message_get_message m₁ m₂) he (by simp [hp])
  rw [bytesOf_message_get_message] at hrun
  have hlen : (processCommands m₁ ++ [encode .get] ++ processCommands m₂).length + 1 =
      m₁.length + 1 + (m₂.length + 1) := by
    simp only [List.length_append, length_processCommands, List.length_singleton, Nat.add_assoc]
  rwa [hlen] at hrun

/-! ### The statements -/

/-- Settles O43: the `GET` between the messages feeds nothing, so both runs feed the bytes of both messages. -/
theorem aMessageAfterGetContinuesTheOneBefore : Obligations.AMessageAfterGetContinuesTheOneBefore :=
  fun m₁ m₂ _ _ he hp =>
    ⟨_, _, run_message_get_message_get m₁ m₂ he hp, run_processCommands_then_get (m₁ ++ m₂) he hp, rfl, rfl⟩

/-- Settles O23: `CONSTRUCT` leaves an instance, and on an instance every instruction completes. -/
theorem resetIsConstruction : Obligations.ResetIsConstruction :=
  ⟨construct_cfg_eq_reset, State.reset.construct_engine Config.cfg,
    fun cfg s i => ⟨_, exec_eq_complete_instanceStep i (s.construct_engine cfg)⟩⟩

/-- Settles O39: reset is `CONSTRUCT`, which leaves an instance and nothing issued. -/
theorem resetStateIsSafe : Obligations.ResetStateIsSafe :=
  construct_safe Config.cfg State.reset

end Sys2Proof.Machine
end

section
/-! The statement of spec/95_test_vectors.md section 4.7: the two bytes of the register, fed as the engine reads them,
cancel it one after the other, and the bytes of the checksum are these where `xorOut` is zero. -/

namespace Sys2Proof.Machine

/-! ### The register's own bytes (R103, R105) -/

/-- The byte read as the high byte of the register cancels it (R106), and the low byte moves up. -/
theorem processByte_inputByte_cancels (cfg : Cfg) (b low : Byte) :
    processByte cfg (ofBytes (inputByte cfg b) low) b = ofBytes low 0#8 := by
  have hhigh : inputByte cfg b = (ofBytes (inputByte cfg b) low).extractLsb' 8 8 := (ofBytes_highByte _ _).symm
  rw [(cancelledBytesShiftTheLowByteUp cfg _ b).1 (.inl hhigh), shiftLeft_eight, ofBytes_lowByte]

/-- A second byte cancels the low byte moved up. -/
theorem processBytes_inputBytes_cancel (cfg : Cfg) (first second : Byte) :
    processBytes cfg (ofBytes (inputByte cfg first) (inputByte cfg second)) [first, second] = 0#16 := by
  rw [processBytes_cons, processByte_inputByte_cancels, processBytes_cons, processByte_inputByte_cancels,
    processBytes_nil]
  rfl

/-! ### The bytes of the checksum (R102, R109) -/

/-- Reflection exchanges the two bytes and reflects each. -/
theorem reflect_ofBytes (high low : Byte) : reflect (ofBytes high low) = ofBytes (reflect low) (reflect high) := by
  simp only [reflect_eq_reverse]
  exact BitVec.reverse_append

theorem inputByte_of_reflectIn {cfg : Cfg} (h : cfg.reflectIn = true) (b : Byte) : inputByte cfg b = reflect b :=
  if_pos h

theorem inputByte_of_not_reflectIn {cfg : Cfg} (h : cfg.reflectIn = false) (b : Byte) : inputByte cfg b = b :=
  if_neg (ne_true_of_eq_false h)

theorem checksum_of_xorOut_zero {cfg : Cfg} (h : cfg.xorOut = 0#16) (r : Word16) :
    checksum cfg r = if cfg.reflectOut then reflect r else r := by
  rw [checksum, h, BitVec.xor_zero]

/-- With both reflections the bytes of the reflected register, low byte first, are read as those of the register,
high byte first. -/
theorem ofBytes_inputByte_of_reflectIn {cfg : Cfg} (h : cfg.reflectIn = true) (r : Word16) :
    ofBytes (inputByte cfg ((reflect r).extractLsb' 0 8)) (inputByte cfg ((reflect r).extractLsb' 8 8)) = r := by
  rw [inputByte_of_reflectIn h, inputByte_of_reflectIn h, ← reflect_ofBytes, ofBytes_extractLsb', reflect_reflect]

theorem ofBytes_inputByte_of_not_reflectIn {cfg : Cfg} (h : cfg.reflectIn = false) (r : Word16) :
    ofBytes (inputByte cfg (r.extractLsb' 8 8)) (inputByte cfg (r.extractLsb' 0 8)) = r := by
  rw [inputByte_of_not_reflectIn h, inputByte_of_not_reflectIn h, ofBytes_extractLsb']

/-! ### The statement -/

/-- Settles O50: with either setting of the reflections the engine reads the two bytes as those of the register. -/
theorem ownChecksumBringsTheRegisterToZero : Obligations.OwnChecksumBringsTheRegisterToZero := by
  intro cfg r hxor hreflect
  rw [checksum_of_xorOut_zero hxor]
  cases hout : cfg.reflectOut with
  | true =>
    have hcancel := processBytes_inputBytes_cancel cfg ((reflect r).extractLsb' 0 8) ((reflect r).extractLsb' 8 8)
    rwa [ofBytes_inputByte_of_reflectIn (hreflect.trans hout)] at hcancel
  | false =>
    have hcancel := processBytes_inputBytes_cancel cfg (r.extractLsb' 8 8) (r.extractLsb' 0 8)
    rwa [ofBytes_inputByte_of_not_reflectIn (hreflect.trans hout)] at hcancel

end Sys2Proof.Machine
end
